-- ==== Sys2Proof/Word.lean ====
section
/-! DEFINITION. The words of the block: the command word, characters and codes, nibbles, slot numbers, and four things in a row. -/

namespace Sys2Proof

/-- A command word, R63. -/
abbrev Word := BitVec 32

/-- A character byte (R17) or a segment pattern (R22). -/
abbrev Byte := BitVec 8

/-- A 4-bit numeric value, R9. -/
abbrev Nibble := BitVec 4

/-- A slot number 0..3: 0 the leftmost digit, 3 the rightmost, R21. -/
abbrev SlotIndex := BitVec 2

/-- The 21-bit slot view READ_SLOT responds, R112. -/
abbrev SlotView := BitVec 21

/-- One thing per digit slot, slot 0 first (`N_DIGITS = 4`, R8). -/
structure Four (α : Type) where
  at0 : α
  at1 : α
  at2 : α
  at3 : α
  deriving DecidableEq, Repr

end Sys2Proof
end

