-- ==== Sys2Proof/Config.lean ====
section
/-! DEFINITION. What the spec leaves OPEN: the named parameters of 00_scope.md R10 to R12 and the draws of R13, as opaque
constants. No proof can see a value of one, so a theorem about the model holds for every value. -/

namespace Sys2Proof.Config

/-- The seven segment lines A..G of conversion-ROM entry n: the part of `SEG_TABLE` (R10) the spec does not give. Log 3. -/
opaque segLines : Nibble → BitVec 7

/-- `SEG_TABLE` (R10): sixteen 8-bit patterns whose bit 7, the decimal point, is 0. Every table that meets R10's constraint is
one choice of `segLines`. -/
def segTable (n : Nibble) : Byte := (segLines n).setWidth 8

/-- `ROM_LOWERCASE` (R12): whether a direct lookup of 'a'..'f' yields 10..15. Log 4. -/
opaque romLowercase : Bool

/-- `RESET_SLOTS` (R11, R40): `slot[i].code` at construction. Log 1. -/
opaque resetCode : SlotIndex → Byte

/-- `RESET_SLOTS` (R11, R40): `slot[i].value` at construction. Log 1. -/
opaque resetValue : SlotIndex → Nibble

/-- `RESET_SLOTS` (R11, R40): `slot[i].ch` at construction. Log 1. -/
opaque resetCh : SlotIndex → Byte

/-- The segment-port level the n-th draw gives after the first INIT (R13, R36). Log 5. -/
opaque drawSeg : Nat → Byte

/-- The select-port level the n-th draw gives after the first INIT (R13, R36). Log 5. -/
opaque drawSel : Nat → BitVec 4

/-- Whether the n-th draw gives a REFRESH that overlaps a multi-slot command the code before that command (true) or the code the
command writes (false) (R13, R52). Log 6. -/
opaque drawOld : Nat → Bool

end Sys2Proof.Config
end

