-- ==== Sys2Proof/Syntax.lean ====
section
/-! DEFINITION. The commands of the block, one constructor per row of spec/opcode_table.json (R70), operands at the widths of
their formats (R65 to R68). -/

namespace Sys2Proof

/-- A command with its operands. -/
inductive Instr where
  /-- INIT, R94. -/
  | init
  /-- CLEAR, R96. -/
  | clear
  /-- WRITE imm16, R98. -/
  | write (v : BitVec 16)
  /-- PRINT_BEGIN, R101. -/
  | printBegin
  /-- PRINT_CHAR c, R102. -/
  | printChar (c : Byte)
  /-- PRINT_END, R108. -/
  | printEnd
  /-- PRINT_RAW, R111. -/
  | printRaw
  /-- REFRESH, R113. -/
  | refresh
  /-- ENC_NIBBLE imm16, R80. -/
  | encNibble (x : BitVec 16)
  /-- CHAR_VALUE c, R82. -/
  | charValue (c : Byte)
  /-- CHAR_CODE c, R84. -/
  | charCode (c : Byte)
  /-- CHAR_VALID c, R86. -/
  | charValid (c : Byte)
  /-- READ_SLOT idx, R112. -/
  | readSlot (idx : SlotIndex)
  deriving DecidableEq, Repr

end Sys2Proof
end

