-- ==== Sys2Proof/WellFormed.lean ====
section
/-! DEFINITION. What makes the fields of a command word spell a command: the opcode map R70, the formats R65 to R68, the
must-be-zero bits of R64 and R72. -/

namespace Sys2Proof

/-- The operand formats, R65 to R68. -/
inductive Format where
  | z
  | i16
  | s2
  | c8
  deriving DecidableEq, Repr

/-- The operand area's must-be-zero bits of a format are 0: all of it for Z, [15:2] for S2, [15:8] for C8, none for I16. -/
def Format.operandOk (f : Format) (operand : BitVec 16) : Bool :=
  match f with
  | .z => operand == 0#16
  | .i16 => true
  | .s2 => operand.extractLsb' 2 14 == 0#14
  | .c8 => operand.extractLsb' 8 8 == 0#8

/-- The thirteen opcodes of R70 by name. -/
inductive Opcode where
  | init
  | clear
  | write
  | printBegin
  | printChar
  | printEnd
  | printRaw
  | refresh
  | encNibble
  | charValue
  | charCode
  | charValid
  | readSlot
  deriving DecidableEq, Repr

/-- The format column of R70. -/
def Opcode.format (o : Opcode) : Format :=
  match o with
  | .init => .z
  | .clear => .z
  | .write => .i16
  | .printBegin => .z
  | .printChar => .c8
  | .printEnd => .z
  | .printRaw => .z
  | .refresh => .z
  | .encNibble => .i16
  | .charValue => .c8
  | .charCode => .c8
  | .charValid => .c8
  | .readSlot => .s2

/-- The op column of R70. -/
def Opcode.bits (o : Opcode) : BitVec 4 :=
  match o with
  | .init => 0x1#4
  | .clear => 0x2#4
  | .write => 0x3#4
  | .printBegin => 0x4#4
  | .printChar => 0x5#4
  | .printEnd => 0x6#4
  | .printRaw => 0x7#4
  | .refresh => 0x8#4
  | .encNibble => 0x9#4
  | .charValue => 0xA#4
  | .charCode => 0xB#4
  | .charValid => 0xC#4
  | .readSlot => 0xD#4

/-- The opcode map R70 read by its op column: no opcode for the reserved 0x0, 0xE and 0xF (R71). -/
def opcodeOf (op : BitVec 4) : Option Opcode :=
  match op with
  | 0x1#4 => some .init
  | 0x2#4 => some .clear
  | 0x3#4 => some .write
  | 0x4#4 => some .printBegin
  | 0x5#4 => some .printChar
  | 0x6#4 => some .printEnd
  | 0x7#4 => some .printRaw
  | 0x8#4 => some .refresh
  | 0x9#4 => some .encNibble
  | 0xA#4 => some .charValue
  | 0xB#4 => some .charCode
  | 0xC#4 => some .charValid
  | 0xD#4 => some .readSlot
  | _ => none

/-- The opcode of a command. -/
def Instr.opcode (i : Instr) : Opcode :=
  match i with
  | .init => .init
  | .clear => .clear
  | .write _ => .write
  | .printBegin => .printBegin
  | .printChar _ => .printChar
  | .printEnd => .printEnd
  | .printRaw => .printRaw
  | .refresh => .refresh
  | .encNibble _ => .encNibble
  | .charValue _ => .charValue
  | .charCode _ => .charCode
  | .charValid _ => .charValid
  | .readSlot _ => .readSlot

/-- The operand area of a command: its operand widened with zeros, R69. -/
def Instr.operand (i : Instr) : BitVec 16 :=
  match i with
  | .init => 0#16
  | .clear => 0#16
  | .write v => v
  | .printBegin => 0#16
  | .printChar c => c.setWidth 16
  | .printEnd => 0#16
  | .printRaw => 0#16
  | .refresh => 0#16
  | .encNibble x => x
  | .charValue c => c.setWidth 16
  | .charCode c => c.setWidth 16
  | .charValid c => c.setWidth 16
  | .readSlot idx => idx.setWidth 16

/-- The three fields every format has, R64. -/
structure Fields where
  op : BitVec 4
  rsv : BitVec 12
  operand : BitVec 16
  deriving DecidableEq, Repr

/-- The fields of a command word, R64. -/
def Fields.ofWord (w : Word) : Fields :=
  { op := w.extractLsb' 28 4, rsv := w.extractLsb' 16 12, operand := w.extractLsb' 0 16 }

/-- The word that has these fields, R64. -/
def Fields.toWord (f : Fields) : Word := f.op ++ (f.rsv ++ f.operand)

/-- The fields spell a command: the opcode is not reserved, and every must-be-zero bit is 0 (R73). -/
def Fields.wellFormed (f : Fields) : Bool :=
  match opcodeOf f.op with
  | none => false
  | some o => f.rsv == 0#12 && o.format.operandOk f.operand

/-- The fields of a command, reserved bits 0, R77. -/
def Instr.fields (i : Instr) : Fields :=
  { op := i.opcode.bits, rsv := 0#12, operand := i.operand }

/-- A command is well-formed when its fields spell a command. An operand of the constructor's own width always fits its format,
so this holds of every `Instr` (Laws/PerInstr.lean); words that fail it are in the tests. -/
def Instr.wellFormed (i : Instr) : Bool := i.fields.wellFormed

end Sys2Proof
end

