-- ==== Sys2Proof/Decode.lean ====
section
/-! DEFINITION. The decoder R72, total on every 32-bit word and refusing by name, and after it the encoder of R77. -/

namespace Sys2Proof

/-- Why a word spells no command (R72, R125). -/
inductive DecodeRefusal where
  /-- Raised by the decoder on op 0x0, 0xE or 0xF (R71). Safe: the block is marked faulted and stops. -/
  | reservedOpcode
  /-- Raised by the decoder when a must-be-zero bit is 1 (R64 to R68). Safe: the block is marked faulted and stops. -/
  | reservedBitsNonZero
  deriving DecidableEq, Repr

/-- The decoder's verdict on a word, R72. -/
inductive Decoded where
  | command (i : Instr)
  | refuse (r : DecodeRefusal)
  deriving DecidableEq, Repr

/-- The command an opcode makes of its operand area, R69: the operand bits of the format, unsigned and taken as is. -/
def Opcode.command (o : Opcode) (operand : BitVec 16) : Instr :=
  match o with
  | .init => .init
  | .clear => .clear
  | .write => .write operand
  | .printBegin => .printBegin
  | .printChar => .printChar (operand.extractLsb' 0 8)
  | .printEnd => .printEnd
  | .printRaw => .printRaw
  | .refresh => .refresh
  | .encNibble => .encNibble operand
  | .charValue => .charValue (operand.extractLsb' 0 8)
  | .charCode => .charCode (operand.extractLsb' 0 8)
  | .charValid => .charValid (operand.extractLsb' 0 8)
  | .readSlot => .readSlot (operand.extractLsb' 0 2)

/-- Decoding by fields, in R72's order of checks: the opcode, bits [27:16], then the format's own must-be-zero bits. -/
def decodeFields (f : Fields) : Decoded :=
  match opcodeOf f.op with
  | none => .refuse .reservedOpcode
  | some o =>
    if f.rsv ≠ 0#12 then .refuse .reservedBitsNonZero
    else if o.format.operandOk f.operand = false then .refuse .reservedBitsNonZero
    else .command (o.command f.operand)

/-- The decoder, R72. -/
def decode (w : Word) : Decoded := decodeFields (Fields.ofWord w)

/-- The decoder on an instruction whose bits are `w`, numbered as spec/opcode_table.json numbers them. Every command is one 32-bit
word (R63); bits of `w` above `nbits` are taken as 0, and a longer bit string that does not fit one word is no command. -/
def decodeTableWord (nbits w : Nat) : Option Instr :=
  let bits := w % 2 ^ nbits
  if bits < 2 ^ 32 then
    match decode (BitVec.ofNat 32 bits) with
    | .command i => some i
    | .refuse _ => none
  else none

/-- The canonical word of a command, reserved bits 0 (R64 to R68, R77). -/
def encode (i : Instr) : Word := i.fields.toWord

end Sys2Proof
end

