-- ==== Sys2Proof/Machine/State.lean ====
section
/-! DEFINITION. The state of the block, R20 (10_state.md), with the commands presented to it and the outputs of its last command,
as plain data, and its value after construction (R40). -/

namespace Sys2Proof.Machine

/-- One digit slot, R21: the segment pattern, the numeric value, the display character. -/
structure Slot where
  code : Byte
  value : Nibble
  ch : Byte
  deriving DecidableEq, Repr

/-- The digit-slot register file, R21. -/
abbrev SlotFile := Four Slot

/-- `pr_state`, the state of the print walk, R32. -/
inductive PrintState where
  /-- No print is open. -/
  | idle
  /-- A print is open and the walk still writes slots. -/
  | walk
  /-- Slot 0 has been written; further characters are ignored. -/
  | stopped
  /-- An invalid character was seen; the print will report failure. -/
  | aborted
  deriving DecidableEq, Repr

/-- The level of an output port of `w` lines: `undriven` before INIT, a distinct value and not a number (R36). -/
inductive PortLevel (w : Nat) where
  | undriven
  | level (v : BitVec w)
  deriving DecidableEq, Repr

/-- What the fault mark records: the closed list of R125. Each reason is raised in the command's own step, which ends in a next
state with the mark set; all are safe, since a marked block takes no further step (R39). -/
inductive FaultReason where
  /-- REFRESH before any INIT (R114). Recorded: the reason only. Safe. -/
  | notInitialised
  /-- INIT, CLEAR, WRITE, PRINT_BEGIN or PRINT_RAW while a print is open (R91). Recorded: the command. Safe. -/
  | printOpen (command : Instr)
  /-- PRINT_CHAR or PRINT_END while no print is open (R91). Recorded: the command. Safe. -/
  | printNotOpen (command : Instr)
  /-- The decoder refused a word (R72). Recorded: the refusal reason and the word. Safe. -/
  | refusedWord (reason : DecodeRefusal) (word : Word)
  deriving DecidableEq, Repr

/-- The agents that issue commands, R53. -/
inductive Agent where
  | host
  | tick
  deriving DecidableEq, Repr

/-- A command presented to the block. The host presents any word; the tick presents only REFRESH (R53). `during` says that the
tick issued it while the host's command before it was still in progress, which matters only after CLEAR, WRITE or
PRINT_BEGIN (R52). -/
inductive Request where
  | host (w : Word)
  | tick (during : Bool)
  deriving DecidableEq, Repr

/-- The one response a command returns, R38. -/
inductive Response where
  | none
  | bool (b : Bool)
  | bits8 (v : Byte)
  | bits4 (v : Nibble)
  | slotView (v : SlotView)
  deriving DecidableEq, Repr

/-- One write of a whole port, R15 and R133. -/
inductive PortEvent where
  | selWrite (v : BitVec 4)
  | segWrite (v : Byte)
  deriving DecidableEq, Repr

/-- A set-up call INIT makes on a collaborator port, R133. -/
inductive PortSetup where
  /-- `init()`: configure the underlying pins. -/
  | init
  /-- `portMode(OUTPUT)`: set the direction. -/
  | portModeOutput
  deriving DecidableEq, Repr

/-- What a step puts out beside the state (R38): the response and the agent it goes to, the port events in the order emitted, and
the set-up calls on each port in the order made. A step that ends faulted responds nothing. -/
structure Output where
  addressee : Option Agent
  response : Option Response
  events : List PortEvent
  segSetup : List PortSetup
  selSetup : List PortSetup
  deriving DecidableEq, Repr

/-- The state: R20's tuple, then the model's own fields (log 6, 7, 10, 12). -/
structure State where
  /-- `slot[0..3]`, R21. -/
  slots : SlotFile
  /-- The refresh cursor, R28. -/
  cursor : SlotIndex
  /-- INIT has run, R31. -/
  inited : Bool
  /-- `pr_state`, R32. -/
  prState : PrintState
  /-- `pr_pos`, the slot the walk writes next, R33. -/
  prPos : SlotIndex
  /-- `seg_out`, R35. -/
  segOut : PortLevel 8
  /-- `sel_out`, R35. -/
  selOut : PortLevel 4
  /-- `faulted`, R39. -/
  faulted : Option FaultReason
  /-- The commands presented and not yet taken, in the one total order of R54. -/
  inbox : List Request
  /-- Who issued the command being run; its response goes there (R38). -/
  issuer : Option Agent
  /-- The slot codes before the multi-slot command that may still be in progress (R52). -/
  overlap : Option (Four Byte)
  /-- How many draws were taken (R13): the next draw is `Config.draw… draws`. -/
  draws : Nat
  /-- What the last command put out. -/
  out : Output
  deriving DecidableEq, Repr

/-- Why a step stops. -/
inductive Fault where
  /-- Raised by every step, and by every meaning, in a block that holds a fault mark: it takes no further step (R39, R129). Safe. -/
  | blockFaulted (reason : FaultReason)
  deriving DecidableEq, Repr

/-- Why an instruction has no meaning. -/
inductive Refusal where
  /-- Raised by an arm of `exec` whose instruction has no meaning; no arm is left so. Safe. -/
  | notModelled (mnemonic : String)
  deriving DecidableEq, Repr

/-- No response, no port event, no set-up call. -/
def Output.silent (addressee : Option Agent) : Output :=
  { addressee := addressee, response := none, events := [], segSetup := [], selSetup := [] }

/-- `RESET_SLOTS[i]`, OPEN (R11, R40; log 1). -/
def resetSlot (i : SlotIndex) : Slot :=
  { code := Config.resetCode i, value := Config.resetValue i, ch := Config.resetCh i }

/-- The state at construction, R40 and R138. `prPos` is unspecified there (log 2); nothing is presented yet (R139; log 12). -/
def State.reset : State :=
  { slots := ⟨resetSlot 0#2, resetSlot 1#2, resetSlot 2#2, resetSlot 3#2⟩
    cursor := 0#2
    inited := false
    prState := .idle
    prPos := 0#2
    segOut := .undriven
    selOut := .undriven
    faulted := none
    inbox := []
    issuer := none
    overlap := none
    draws := 0
    out := Output.silent none }

end Sys2Proof.Machine
end

