-- ==== Sys2Proof/Machine/Ops.lean ====
section
/-! DEFINITION. The named operations every command is made of: reading and writing the slot file, the port writes, the response, the
fault mark, the checks a command begins with, and taking the next presented command. -/

namespace Sys2Proof

/-- The entry of slot `i`. Every index 0..3 is valid and there is no other (R47). -/
def Four.get {α : Type} (f : Four α) (i : SlotIndex) : α :=
  if i = 0#2 then f.at0 else if i = 1#2 then f.at1 else if i = 2#2 then f.at2 else f.at3

/-- The entry of slot `i` replaced, the other three kept. -/
def Four.set {α : Type} (f : Four α) (i : SlotIndex) (x : α) : Four α :=
  if i = 0#2 then { f with at0 := x }
  else if i = 1#2 then { f with at1 := x }
  else if i = 2#2 then { f with at2 := x }
  else { f with at3 := x }

/-- One entry computed per slot: `for i in 0..3` of R15. -/
def Four.ofFn {α : Type} (g : SlotIndex → α) : Four α := ⟨g 0#2, g 1#2, g 2#2, g 3#2⟩

/-- Every entry mapped. -/
def Four.map {α β : Type} (g : α → β) (f : Four α) : Four β := ⟨g f.at0, g f.at1, g f.at2, g f.at3⟩

namespace Machine

/-- `BLANK`, R92. -/
def blankSlot : Slot := { code := 0x00#8, value := 0#4, ch := 0x00#8 }

/-- Four blank slots. -/
def blankSlots : SlotFile := Four.ofFn fun _ => blankSlot

/-- The codes of the four slots. -/
def SlotFile.codes (f : SlotFile) : Four Byte := f.map Slot.code

/-- Write one slot whole (R51). Only PRINT_CHAR does, and no REFRESH overlaps it (R52). -/
def State.setSlot (s : State) (i : SlotIndex) (x : Slot) : State := { s with slots := s.slots.set i x }

/-- Write all four slots, in no stated order. The codes before stay in `overlap`: while the command is in progress an overlapping
REFRESH may still read them (R52). -/
def State.loadSlots (s : State) (f : SlotFile) : State :=
  { s with slots := f, overlap := some s.slots.codes }

/-- `emit SelWrite(v); sel_out <- v`: drive all four select lines (R15, R113, R133). -/
def State.emitSel (s : State) (v : BitVec 4) : State :=
  { s with selOut := .level v, out := { s.out with events := s.out.events ++ [.selWrite v] } }

/-- `emit SegWrite(v); seg_out <- v`: drive all eight segment lines (R15, R113, R133). -/
def State.emitSeg (s : State) (v : Byte) : State :=
  { s with segOut := .level v, out := { s.out with events := s.out.events ++ [.segWrite v] } }

/-- `port.init(); port.portMode(OUTPUT)` on both ports, R94 and R133. The spec orders the two calls on a port, not the ports. -/
def State.setUpPorts (s : State) : State :=
  { s with out := { s.out with segSetup := [.init, .portModeOutput], selSetup := [.init, .portModeOutput] } }

/-- The port levels between the first INIT and the first REFRESH: any value, a draw (R13, R36; log 5). -/
def State.drawPortLevels (s : State) : State :=
  { s with
    segOut := .level (Config.drawSeg s.draws)
    selOut := .level (Config.drawSel s.draws)
    draws := s.draws + 1 }

/-- The code a REFRESH reads from slot `k` (R116), and the state after the reading. With no multi-slot command in progress it is the
slot's code. With one, it is a draw from the code before that command and the code the command wrote, a fresh draw for each
REFRESH (R52; log 6). -/
def State.readCode (s : State) (k : SlotIndex) : Byte × State :=
  match s.overlap with
  | none => ((s.slots.get k).code, s)
  | some old =>
    (if Config.drawOld s.draws then old.get k else (s.slots.get k).code, { s with draws := s.draws + 1 })

/-- `respond r`: the command ends and returns `r` to the agent that issued it (R15, R38). -/
def respond (r : Response) (s : State) : Host.Outcome State Fault Refusal :=
  .next { s with out := { s.out with response := some r } }

/-- `raise Fault(reason)` and `refuse(reason)`: the step ends in a state with the fault mark set and nothing else changed, no slot,
cursor, port, `inited` or print state (R125). Nothing is put out. This is all there is of taking an exception: no state is
saved and there is no handler (R129) and no return (R130). -/
def raise (reason : FaultReason) (s : State) : Host.Outcome State Fault Refusal :=
  .next { s with faulted := some reason, out := Output.silent s.issuer }

/-- Run a command's body in a block that holds no fault mark, its outputs empty at the start. A faulted block takes no further
step (R39). -/
def whenRunning (s : State) (body : State → Host.Outcome State Fault Refusal) : Host.Outcome State Fault Refusal :=
  match s.faulted with
  | some reason => .fault (.blockFaulted reason)
  | none => body { s with out := Output.silent s.issuer }

/-- The state check of INIT, CLEAR, WRITE, PRINT_BEGIN and PRINT_RAW: they fault with `PrintOpen` while a print is open (R91). -/
def whenPrintClosed (command : Instr) (s : State) (body : State → Host.Outcome State Fault Refusal) :
    Host.Outcome State Fault Refusal :=
  whenRunning s fun s => if s.prState = .idle then body s else raise (.printOpen command) s

/-- The state check of PRINT_CHAR and PRINT_END: they fault with `PrintNotOpen` while no print is open (R91). -/
def whenPrintOpen (command : Instr) (s : State) (body : State → Host.Outcome State Fault Refusal) :
    Host.Outcome State Fault Refusal :=
  whenRunning s fun s => if s.prState = .idle then raise (.printNotOpen command) s else body s

/-- The state check of REFRESH: it faults with `NotInitialised` before any INIT (R114). -/
def whenInited (s : State) (body : State → Host.Outcome State Fault Refusal) : Host.Outcome State Fault Refusal :=
  whenRunning s fun s => if s.inited = true then body s else raise .notInitialised s

/-- The word of a presented command. The tick issues only REFRESH (R53). -/
def Request.word (q : Request) : Word :=
  match q with
  | .host w => w
  | .tick _ => encode .refresh

/-- The agent that presents it. -/
def Request.agent (q : Request) : Agent :=
  match q with
  | .host _ => .host
  | .tick _ => .tick

/-- The state in which a presented command is run. It has left the inbox, and its agent waits for the response. The multi-slot
command before it is still in progress only if this is a tick REFRESH issued during it (R52): a host command comes after the host's
last one has ended (R53). -/
def State.present (s : State) (q : Request) (rest : List Request) : State :=
  { s with
    inbox := rest
    issuer := some q.agent
    overlap := match q with
      | .tick true => s.overlap
      | .tick false => none
      | .host _ => none }

/-- The next command word in the total order of R54 with the state in which it is run; none when none is presented. -/
def State.nextCommand (s : State) : Option (Word × State) :=
  match s.inbox with
  | [] => none
  | q :: rest => some (q.word, s.present q rest)

/-- A refused word sets the fault mark with the refusal reason and has no other effect (R72). -/
def refuseWord (reason : DecodeRefusal) (w : Word) (s : State) : Host.Outcome State Fault Refusal :=
  raise (.refusedWord reason w) s

/-- Present a host word as the very next command. -/
def State.presentNext (s : State) (w : Word) : State := { s with inbox := .host w :: s.inbox }

/-- The levels of the select and the segment port after each of a list of port events, from given levels before them. Inside a
REFRESH this shows the state between its two port writes, the new digit selected with the old pattern (R55, R144). -/
def portLevels (sel : PortLevel 4) (seg : PortLevel 8) (events : List PortEvent) : List (PortLevel 4 × PortLevel 8) :=
  match events with
  | [] => []
  | .selWrite v :: rest => (.level v, seg) :: portLevels (.level v) seg rest
  | .segWrite v :: rest => (sel, .level v) :: portLevels sel (.level v) rest

end Machine

end Sys2Proof
end

