-- ==== Sys2Proof/Machine/Operands.lean ====
section
/-! DEFINITION. Operand forms: the nibbles of a 16-bit operand, the character helpers of R16, and the packed slot view. -/

namespace Sys2Proof.Machine

/-- The low nibble of a 16-bit operand: ENC_NIBBLE masks its operand to 4 bits (R69, R79). -/
def lowNibble (x : BitVec 16) : Nibble := x.extractLsb' 0 4

/-- The nibble `v[15-4i : 12-4i]` that WRITE puts into slot `i`: the most significant nibble into slot 0 (R48, R98). -/
def writeNibble (v : BitVec 16) (i : SlotIndex) : Nibble := v.extractLsb' (12 - 4 * i.toNat) 4

/-- `isDigit`, R16: '0'..'9'. -/
def isDigit (c : Byte) : Bool := decide (0x30#8 ≤ c) && decide (c ≤ 0x39#8)

/-- `isUpperHex`, R16: 'A'..'F'. -/
def isUpperHex (c : Byte) : Bool := decide (0x41#8 ≤ c) && decide (c ≤ 0x46#8)

/-- `isLowerHex`, R16: 'a'..'f'. -/
def isLowerHex (c : Byte) : Bool := decide (0x61#8 ≤ c) && decide (c ≤ 0x66#8)

/-- `upper`, R16: ASCII case normalisation, 'a'..'z' down by 0x20 and every other byte as it is (log 17). -/
def upper (c : Byte) : Byte := if 0x61#8 ≤ c ∧ c ≤ 0x7A#8 then c - 0x20#8 else c

/-- `hexchar`, R16: the ASCII hex digit of a nibble, capitals. -/
def hexchar (n : Nibble) : Byte := if n ≤ 9#4 then 0x30#8 + n.setWidth 8 else 0x37#8 + n.setWidth 8

/-- The character `'-'`, R17. -/
def charDash : Byte := 0x2D#8

/-- The character `' '`, R17. -/
def charSpace : Byte := 0x20#8

/-- The character `'.'`, R17. -/
def charDot : Byte := 0x2E#8

/-- The decimal-point bit of a pattern, R19 and R88. -/
def dpBit : Byte := 0x80#8

/-- The packed view READ_SLOT responds: `{hasDecimal, ch, value, code}`, code in bits [7:0], value in [11:8], ch in [19:12],
hasDecimal in bit 20 (R112). -/
def packSlot (hasDecimal : Bool) (x : Slot) : SlotView := BitVec.ofBool hasDecimal ++ (x.ch ++ (x.value ++ x.code))

end Sys2Proof.Machine
end

