-- ==== Sys2Proof/Machine/Flags.lean ====
section
/-! DEFINITION. The block's Boolean indications, R37. It has no condition codes: `hasDecimal` and the print result are derived,
`inited` and `faulted` are fields of State. -/

namespace Sys2Proof.Machine

/-- `hasDecimal`, not stored: bit 7 of the slot's code at every instant (R25). -/
def Slot.hasDecimal (x : Slot) : Bool := x.code.getLsbD 7

/-- The success result of a print, held as `pr_state ≠ ABORTED` (R37, R108). -/
def PrintState.success (p : PrintState) : Bool := p != .aborted

end Sys2Proof.Machine
end

