-- ==== Sys2Proof/Machine/Rom.lean ====
section
/-! DEFINITION. The character ROM (Segment Encoder): its four functions (40_rom_lookup.md, the odd rules). They read no state
(R87) and are total (R89). -/

namespace Sys2Proof.Machine

/-- `encodeNibble`, R79: the ROM entry of the operand's low nibble. -/
def encodeNibble (x : BitVec 16) : Byte := Config.segTable (lowNibble x)

/-- `charToValue`, R81: hex digits to 0..15, lowercase letters by `ROM_LOWERCASE`, every other byte to the fallback 0. -/
def charToValue (c : Byte) : Nibble :=
  if isDigit c then (c - 0x30#8).setWidth 4
  else if isUpperHex c then (c - 0x37#8).setWidth 4
  else if isLowerHex c && Config.romLowercase then (c - 0x57#8).setWidth 4
  else 0#4

/-- `charToCode`, R83: dash 0x40, blank 0x00, and every other byte through `encodeNibble (charToValue c)`. -/
def charToCode (c : Byte) : Byte :=
  if c = charDash then 0x40#8
  else if c = charSpace then 0x00#8
  else encodeNibble ((charToValue c).setWidth 16)

/-- `isValidChar`, R85, of a character already normalised to uppercase. -/
def isValidChar (c : Byte) : Bool := isDigit c || isUpperHex c || c == charDash || c == charDot || c == charSpace

end Sys2Proof.Machine
end

