-- ==== Sys2Proof/Machine/Load.lean ====
section
/-! DEFINITION. The Display Controller's INIT, CLEAR, WRITE and READ_SLOT (41_digit_load.md sections 2 to 4 and 7). -/

namespace Sys2Proof.Machine

/-- INIT, R94. A repeat changes no state (R95): it makes the set-up calls again and the ports keep their levels. -/
def execInit (s : State) : Host.Outcome State Fault Refusal :=
  whenPrintClosed .init s fun s =>
    if s.inited = true then respond .none s.setUpPorts
    else respond .none { s.setUpPorts.drawPortLevels with inited := true }

/-- CLEAR, R96: every slot BLANK; the cursor stays (R29, conflict C5). -/
def execClear (s : State) : Host.Outcome State Fault Refusal :=
  whenPrintClosed .clear s fun s => respond .none (s.loadSlots blankSlots)

/-- The slot WRITE makes of a nibble, R98. -/
def hexSlot (n : Nibble) : Slot := { code := encodeNibble (n.setWidth 16), value := n, ch := hexchar n }

/-- WRITE, R98: slot i shows nibble `v[15-4i : 12-4i]`. -/
def execWrite (v : BitVec 16) (s : State) : Host.Outcome State Fault Refusal :=
  whenPrintClosed (.write v) s fun s => respond .none (s.loadSlots (Four.ofFn fun i => hexSlot (writeNibble v i)))

/-- READ_SLOT, R112: valid in every state that is not faulted, an open print included. -/
def execReadSlot (idx : SlotIndex) (s : State) : Host.Outcome State Fault Refusal :=
  whenRunning s fun s =>
    let x := s.slots.get idx
    respond (.slotView (packSlot x.hasDecimal x)) s

end Sys2Proof.Machine
end

