-- ==== Sys2Proof/Machine/Lookup.lean ====
section
/-! DEFINITION. The lookup commands of the character ROM (40_rom_lookup.md, the even rules): valid in every state that is not
faulted, changing no state (R87). -/

namespace Sys2Proof.Machine

/-- ENC_NIBBLE, R80. -/
def execEncNibble (x : BitVec 16) (s : State) : Host.Outcome State Fault Refusal :=
  whenRunning s (respond (.bits8 (encodeNibble x)))

/-- CHAR_VALUE, R82: no case normalisation is applied here. -/
def execCharValue (c : Byte) (s : State) : Host.Outcome State Fault Refusal :=
  whenRunning s (respond (.bits4 (charToValue c)))

/-- CHAR_CODE, R84. -/
def execCharCode (c : Byte) (s : State) : Host.Outcome State Fault Refusal :=
  whenRunning s (respond (.bits8 (charToCode c)))

/-- CHAR_VALID, R86: the command normalises case itself. -/
def execCharValid (c : Byte) (s : State) : Host.Outcome State Fault Refusal :=
  whenRunning s (respond (.bool (isValidChar (upper c))))

end Sys2Proof.Machine
end

