-- ==== Sys2Proof/Machine/Print.lean ====
section
/-! DEFINITION. The print commands PRINT_BEGIN, PRINT_CHAR, PRINT_END and the stub PRINT_RAW (41_digit_load.md sections 5 and 6). -/

namespace Sys2Proof.Machine

/-- PRINT_BEGIN, R101: clear the slots and start the walk at slot 3. -/
def execPrintBegin (s : State) : Host.Outcome State Fault Refusal :=
  whenPrintClosed .printBegin s fun s =>
    respond .none { s.loadSlots blankSlots with prPos := 3#2, prState := .walk }

/-- The DP step, R104: OR the decimal-point bit into the most recently written slot, or into slot 0 when none is written yet. -/
def dpStep (s : State) : State :=
  let k := s.prPos + 1#2
  let x := s.slots.get k
  s.setSlot k { x with code := x.code ||| dpBit }

/-- The write step, R105, for a valid normalised character that is no '.': OR its pattern into the walk's slot, then move one slot
leftward; once slot 0 is written the walk stops (R106). -/
def writeStep (u : Byte) (s : State) : State :=
  let x := s.slots.get s.prPos
  let t := s.setSlot s.prPos { code := x.code ||| charToCode u, value := charToValue u, ch := u }
  if s.prPos = 0#2 then { t with prState := .stopped } else { t with prPos := s.prPos - 1#2 }

/-- One character of the walk, R102 and R103: nothing once the walk has stopped or aborted (R107); an invalid character aborts it and
writes no slot. -/
def walkStep (c : Byte) (s : State) : State :=
  match s.prState with
  | .walk =>
    let u := upper c
    if isValidChar u = false then { s with prState := .aborted }
    else if u = charDot then dpStep s
    else writeStep u s
  | .idle => s
  | .stopped => s
  | .aborted => s

/-- PRINT_CHAR, R102. -/
def execPrintChar (c : Byte) (s : State) : Host.Outcome State Fault Refusal :=
  whenPrintOpen (.printChar c) s fun s => respond .none (walkStep c s)

/-- PRINT_END, R108: close the print and return whether no invalid character was met. -/
def execPrintEnd (s : State) : Host.Outcome State Fault Refusal :=
  whenPrintOpen .printEnd s fun s => respond (.bool s.prState.success) { s with prState := .idle }

/-- PRINT_RAW, R111: the stub that always answers false and changes no state. -/
def execPrintRaw (s : State) : Host.Outcome State Fault Refusal :=
  whenPrintClosed .printRaw s (respond (.bool false))

end Sys2Proof.Machine
end

