-- ==== Sys2Proof/Machine/Refresh.lean ====
section
/-! DEFINITION. The refresh multiplexer: REFRESH (42_refresh_mux.md). -/

namespace Sys2Proof.Machine

/-- The select value of a cursor, `1 << (3 - cursor)`: slot 0, the leftmost digit, on bit 3 (R50, R115). -/
def selectBit (k : SlotIndex) : BitVec 4 := 1#4 <<< (3 - k.toNat)

/-- REFRESH, R113: assert the select line of the slot under the cursor, then drive that slot's code, then advance the cursor, in
this order and in one step (R55). It is valid whatever `pr_state` is (R121). -/
def execRefresh (s : State) : Host.Outcome State Fault Refusal :=
  whenInited s fun s =>
    let k := s.cursor
    let selected := s.emitSel (selectBit k)
    let read := selected.readCode k
    let shown := read.2.emitSeg read.1
    respond .none { shown with cursor := k + 1#2 }

end Sys2Proof.Machine
end

