-- ==== Sys2Proof/Machine/Dispatch.lean ====
section
/-! DEFINITION. One arm per command, in the order of the opcode map R70. -/

namespace Sys2Proof.Machine

def exec (i : Instr) (s : State) : Host.Outcome State Fault Refusal :=
  match i with
  | .init => Sys2Proof.Machine.execInit s
  | .clear => Sys2Proof.Machine.execClear s
  | .write v => Sys2Proof.Machine.execWrite v s
  | .printBegin => Sys2Proof.Machine.execPrintBegin s
  | .printChar c => Sys2Proof.Machine.execPrintChar c s
  | .printEnd => Sys2Proof.Machine.execPrintEnd s
  | .printRaw => Sys2Proof.Machine.execPrintRaw s
  | .refresh => Sys2Proof.Machine.execRefresh s
  | .encNibble x => Sys2Proof.Machine.execEncNibble x s
  | .charValue c => Sys2Proof.Machine.execCharValue c s
  | .charCode c => Sys2Proof.Machine.execCharCode c s
  | .charValid c => Sys2Proof.Machine.execCharValid c s
  | .readSlot idx => Sys2Proof.Machine.execReadSlot idx s

end Sys2Proof.Machine
end

