-- ==== Sys2Proof/Machine/Step.lean ====
section
/-! DEFINITION. One step of the block: the next presented command, decoded and run. -/

namespace Sys2Proof.Machine

/-- One step. A faulted block takes none (R39). With no command presented the block waits and holds its state (R137, R139; log 8).
Otherwise the next command word of R54's order is decoded (R72) and run, or refused with the fault mark set. -/
def step (s : State) : Host.Outcome State Fault Refusal :=
  match s.faulted with
  | some reason => .fault (.blockFaulted reason)
  | none =>
    match s.nextCommand with
    | none => .next s
    | some (w, t) =>
      match decode w with
      | .command i => exec i t
      | .refuse reason => refuseWord reason w t

/-- `s` with the command whose bits are `w` presented by the host as the very next command (log 7). -/
def State.withFetchWord (s : State) (nbits w : Nat) : State := s.presentNext (BitVec.ofNat 32 (w % 2 ^ nbits))

end Sys2Proof.Machine
end

