-- ==== Sys2Proof/Machine/Pseudo.lean ====
section
/-! DEFINITION. The PRINT pseudo-command: its expansion into commands (R75), the program R100 says it has the effect of, and the closed
form of a valid print (R109). -/

namespace Sys2Proof.Machine

/-- PRINT of a text, `t[0]` first: PRINT_BEGIN, one PRINT_CHAR per character from the last to the first, PRINT_END (R75, R146). -/
def printCommands (text : List Byte) : List Instr := .printBegin :: (text.reverse.map .printChar ++ [.printEnd])

/-- The command words of PRINT: two more than the text has characters (R75). -/
def printWords (text : List Byte) : List Word := (printCommands text).map encode

/-- Commands run one after another by the host, each ended before the next, with no other command between them. -/
def runCommands (commands : List Instr) (s : State) : Host.Outcome State Fault Refusal :=
  match commands with
  | [] => .next s
  | i :: rest =>
    match exec i { s with overlap := none } with
    | .next t => runCommands rest t
    | .fault r => .fault r
    | .refused r => .refused r

/-- Steps 2 to 6 of R100's program: the walk over the characters in right-to-left order, from slot `pos` on, and what it returns. -/
def printWalk (characters : List Byte) (slots : SlotFile) (pos : SlotIndex) : SlotFile × Bool :=
  match characters with
  | [] => (slots, true)
  | t :: rest =>
    let c := upper t
    if isValidChar c = false then (slots, false)
    else if c = charDot then
      let x := slots.get (pos + 1#2)
      printWalk rest (slots.set (pos + 1#2) { x with code := x.code ||| dpBit }) pos
    else
      let x := slots.get pos
      let written := slots.set pos { code := x.code ||| charToCode c, value := charToValue c, ch := c }
      if pos = 0#2 then (written, true) else printWalk rest written (pos - 1#2)

/-- R100's program `print(t)`: the slots it leaves and the result it returns. -/
def printProgram (text : List Byte) : SlotFile × Bool := printWalk text.reverse blankSlots 3#2

/-- A valid text read right to left, R109: leading '.'s, then digit characters each followed by '.'s. -/
def groupedText (leadingDots : Nat) (groups : List (Byte × Nat)) : List Byte :=
  (List.replicate leadingDots charDot ++ groups.flatMap fun g => g.1 :: List.replicate g.2 charDot).reverse

/-- The slot a valid print leaves at `i`, R109: digit character m (from 0, right to left) goes to slot 3 - m; a '.' that follows it sets
its decimal point unless the walk has stopped; a leading '.' sets slot 0's. -/
def closedSlot (leadingDots : Nat) (groups : List (Byte × Nat)) (i : SlotIndex) : Slot :=
  let leadingDp := if i = 0#2 ∧ 0 < leadingDots then dpBit else 0#8
  match groups[3 - i.toNat]? with
  | none => { blankSlot with code := leadingDp }
  | some g =>
    let ownDp := if i ≠ 0#2 ∧ 0 < g.2 then dpBit else 0#8
    { code := charToCode (upper g.1) ||| leadingDp ||| ownDp, value := charToValue (upper g.1), ch := upper g.1 }

end Sys2Proof.Machine
end

