-- ==== Sys2Proof/Machine/Asm.lean ====
section
/-! DEFINITION. The assembler syntax of R74 to R76: one command per line, and the PRINT pseudo-command. What the spec leaves open of the
line's spelling is fixed as log 16 says. -/

namespace Sys2Proof.Machine

/-- The mnemonic of an opcode, as R70 and spec/opcode_table.json spell it. -/
def mnemonicOf (o : Opcode) : List Char :=
  match o with
  | .init => ['I', 'N', 'I', 'T']
  | .clear => ['C', 'L', 'E', 'A', 'R']
  | .write => ['W', 'R', 'I', 'T', 'E']
  | .printBegin => ['P', 'R', 'I', 'N', 'T', '_', 'B', 'E', 'G', 'I', 'N']
  | .printChar => ['P', 'R', 'I', 'N', 'T', '_', 'C', 'H', 'A', 'R']
  | .printEnd => ['P', 'R', 'I', 'N', 'T', '_', 'E', 'N', 'D']
  | .printRaw => ['P', 'R', 'I', 'N', 'T', '_', 'R', 'A', 'W']
  | .refresh => ['R', 'E', 'F', 'R', 'E', 'S', 'H']
  | .encNibble => ['E', 'N', 'C', '_', 'N', 'I', 'B', 'B', 'L', 'E']
  | .charValue => ['C', 'H', 'A', 'R', '_', 'V', 'A', 'L', 'U', 'E']
  | .charCode => ['C', 'H', 'A', 'R', '_', 'C', 'O', 'D', 'E']
  | .charValid => ['C', 'H', 'A', 'R', '_', 'V', 'A', 'L', 'I', 'D']
  | .readSlot => ['R', 'E', 'A', 'D', '_', 'S', 'L', 'O', 'T']

/-- All opcodes, in the order of R70. -/
def allOpcodes : List Opcode :=
  [.init, .clear, .write, .printBegin, .printChar, .printEnd, .printRaw, .refresh, .encNibble, .charValue, .charCode, .charValid,
    .readSlot]

/-- The opcode a mnemonic names. -/
def opcodeNamed (name : List Char) : Option Opcode := allOpcodes.find? fun o => mnemonicOf o == name

/-- The value of a digit in a base of at most 16, either case (log 16). -/
def digitValue (base : Nat) (c : Char) : Option Nat :=
  let n := c.toNat
  let v := if 48 ≤ n ∧ n ≤ 57 then n - 48 else if 65 ≤ n ∧ n ≤ 70 then n - 55 else if 97 ≤ n ∧ n ≤ 102 then n - 87 else 16
  if v < base then some v else none

/-- The value of digits, most significant first, after those worth `acc`. -/
def digitsValue (base acc : Nat) (cs : List Char) : Option Nat :=
  match cs with
  | [] => some acc
  | c :: rest =>
    match digitValue base c with
    | none => none
    | some v => digitsValue base (acc * base + v) rest

/-- A number literal: hexadecimal with `0x`, else decimal (R74); at least one digit. -/
def numberValue (cs : List Char) : Option Nat :=
  match cs with
  | [] => none
  | ['0', 'x'] => none
  | '0' :: 'x' :: rest => digitsValue 16 0 rest
  | _ => digitsValue 10 0 cs

/-- The byte of a printable ASCII character, R17 and R76. -/
def printableByte (c : Char) : Option Byte :=
  if 0x20 ≤ c.toNat ∧ c.toNat ≤ 0x7E then some (BitVec.ofNat 8 c.toNat) else none

/-- A character operand: a character literal, where backslash and 0 between quotes is the byte 0x00, or a number 0..255 (R74, R76). -/
def characterValue (cs : List Char) : Option Byte :=
  match cs with
  | ['\'', '\\', '0', '\''] => some 0x00#8
  | ['\'', c, '\''] => printableByte c
  | _ =>
    match numberValue cs with
    | none => none
    | some n => if n < 256 then some (BitVec.ofNat 8 n) else none

/-- The bytes of a text literal after its opening double quote: printable characters, and a backslash, x and two hexadecimal digits
for any other byte; the closing double quote ends the line (R76). -/
def textBytes (cs : List Char) : Option (List Byte) :=
  match cs with
  | ['"'] => some []
  | '\\' :: 'x' :: h :: l :: rest =>
    match digitsValue 16 0 [h, l], textBytes rest with
    | some n, some bytes => some (BitVec.ofNat 8 n :: bytes)
    | _, _ => none
  | c :: rest =>
    if c = '"' ∨ c = '\\' then none
    else
      match printableByte c, textBytes rest with
      | some b, some bytes => some (b :: bytes)
      | _, _ => none
  | [] => none

/-- The operand area a format makes of an operand's text: none for Z; a number for I16; a slot number 0..3 for S2; a character for C8
(R74). -/
def operandValue (f : Format) (cs : List Char) : Option (BitVec 16) :=
  match f with
  | .z => if cs = [] then some 0#16 else none
  | .i16 =>
    match numberValue cs with
    | none => none
    | some n => if n < 65536 then some (BitVec.ofNat 16 n) else none
  | .s2 =>
    match numberValue cs with
    | none => none
    | some n => if n < 4 then some (BitVec.ofNat 16 n) else none
  | .c8 =>
    match characterValue cs with
    | none => none
    | some b => some (b.setWidth 16)

/-- One line of assembler: a mnemonic and its operand, `word = (op << 28) | operand` (R74); or PRINT and a text literal, which expands to
the words of R75. -/
def assembleLine (line : List Char) : Option (List Word) :=
  let name := line.takeWhile fun c => c != ' '
  let operand := (line.dropWhile fun c => c != ' ').dropWhile fun c => c == ' '
  if name = ['P', 'R', 'I', 'N', 'T'] then
    match operand with
    | '"' :: cs => (textBytes cs).map printWords
    | _ => none
  else
    match opcodeNamed name with
    | none => none
    | some o =>
      match operandValue o.format operand with
      | none => none
      | some v => some [o.bits.setWidth 32 <<< 28 ||| v.setWidth 32]

end Sys2Proof.Machine
end

