-- ==== Sys2Proof/Safety.lean ====
section
/-! DEFINITION. What counts as a safe run, and the invariants claims are stated with. -/

namespace Sys2Proof.Safety

open Sys2Proof.Machine

/-- The block holds no fault mark: it can take a step (R39). A run is safe while this holds. -/
abbrev Running (s : State) : Prop := s.faulted = none

/-- No print is open (R91). -/
abbrev PrintClosed (s : State) : Prop := s.prState = .idle

/-- The ports are undriven exactly until INIT has run (R36). -/
def PortsFollowInit (s : State) : Prop :=
  (s.inited = false → s.segOut = .undriven ∧ s.selOut = .undriven) ∧
  (s.inited = true → (∃ v, s.segOut = .level v) ∧ ∃ v, s.selOut = .level v)

/-- The reachable codes of R26: a table entry, dash or blank, each with or without the decimal point. -/
def ReachableCode (c : Byte) : Prop :=
  (∃ n : Nibble, c = Config.segTable n ∨ c = Config.segTable n ||| dpBit) ∨
  c = 0x40#8 ∨ c = 0xC0#8 ∨ c = 0x00#8 ∨ c = 0x80#8

/-- Every slot holds a reachable code (R26, R141). -/
def CodesReachable (s : State) : Prop := ∀ i : SlotIndex, ReachableCode (s.slots.get i).code

/-- While a print walks, the slots it has not written are BLANK, but for the decimal point a leading '.' put into slot 0
(R101, R104). -/
def WalkAheadBlank (s : State) : Prop :=
  s.prState = .walk → ∀ i : SlotIndex, i ≤ s.prPos →
    s.slots.get i = blankSlot ∨ (i = 0#2 ∧ s.slots.get i = { blankSlot with code := dpBit })

/-- What a slot that a command wrote holds: BLANK, or a character a print may write with its value and pattern; each with or without
the decimal point. WRITE's hex digits are such characters. -/
def SlotCoherent (x : Slot) : Prop :=
  (x.value = 0#4 ∧ x.ch = 0x00#8 ∧ (x.code = 0x00#8 ∨ x.code = dpBit)) ∨
  (Machine.isValidChar x.ch = true ∧ x.ch ≠ charDot ∧ x.value = charToValue x.ch ∧
    (x.code = charToCode x.ch ∨ x.code = charToCode x.ch ||| dpBit))

/-- Every slot shows what its introspection fields say. -/
def SlotsCoherent (s : State) : Prop := ∀ i : SlotIndex, SlotCoherent (s.slots.get i)

/-- The host holds the tick off while its commands run: no presented REFRESH overlaps a multi-slot command (R56). A premise of a
claim, not a command. -/
def TickHeldOff (s : State) : Prop := ∀ q ∈ s.inbox, q ≠ .tick true

/-- The port writes of one step, R55 and R115: none, or one select write with exactly the bit of some slot and then one segment
write. -/
def OneHotEvents (events : List PortEvent) : Prop :=
  events = [] ∨ ∃ (k : SlotIndex) (c : Byte), events = [.selWrite (selectBit k), .segWrite c]

/-- What a command that ends without a port event puts out: its response to the agent that issued it (R38). -/
def answer (s : State) (r : Response) : Output :=
  { addressee := s.issuer, response := some r, events := [], segSetup := [], selSetup := [] }

/-- The state a fault or refusal leaves: the mark set, nothing put out, and everything else as it was (R125). -/
def marked (s : State) (reason : FaultReason) : State :=
  { s with
    faulted := some reason
    out := { addressee := s.issuer, response := none, events := [], segSetup := [], selSetup := [] } }

/-- Two outcomes agree up to a change of the next state. -/
def SameUpTo (f : State → State) (a b : Host.Outcome State Fault Refusal) : Prop :=
  match a, b with
  | .next t, .next u => f t = f u
  | .fault r, .fault r' => r = r'
  | .refused r, .refused r' => r = r'
  | _, _ => False

/-- INIT, CLEAR, WRITE, PRINT_BEGIN and PRINT_RAW: the commands that fault while a print is open (R91). -/
def NeedsPrintClosed (i : Instr) : Prop :=
  i = .init ∨ i = .clear ∨ (∃ v, i = .write v) ∨ i = .printBegin ∨ i = .printRaw

/-- PRINT_CHAR and PRINT_END: the commands that fault while no print is open (R91). -/
def NeedsPrintOpen (i : Instr) : Prop := (∃ c, i = .printChar c) ∨ i = .printEnd

/-- CLEAR, WRITE and PRINT_BEGIN: the commands that write all four slots (R52). -/
def WritesAllSlots (i : Instr) : Prop := i = .clear ∨ (∃ v, i = .write v) ∨ i = .printBegin

/-- The lookup commands of the character ROM (R87). -/
def IsLookup (i : Instr) : Prop :=
  (∃ x, i = .encNibble x) ∨ (∃ c, i = .charValue c) ∨ (∃ c, i = .charCode c) ∨ ∃ c, i = .charValid c

/-- The type of the response R38 gives each command. -/
def RespondsAsTyped (i : Instr) (r : Response) : Prop :=
  match i with
  | .init => r = .none
  | .clear => r = .none
  | .write _ => r = .none
  | .printBegin => r = .none
  | .printChar _ => r = .none
  | .printEnd => ∃ b, r = .bool b
  | .printRaw => ∃ b, r = .bool b
  | .refresh => r = .none
  | .encNibble _ => ∃ v, r = .bits8 v
  | .charValue _ => ∃ v, r = .bits4 v
  | .charCode _ => ∃ v, r = .bits8 v
  | .charValid _ => ∃ b, r = .bool b
  | .readSlot _ => ∃ v, r = .slotView v

end Sys2Proof.Safety
end

