-- ==== Sys2Proof/Certificates/Slice0/Obligations.lean ====
section
/-! DEFINITION. The statements for the provers. Each docstring names the rule or the sentence of spec/ it formalises. -/

open Sys2Proof Sys2Proof.Machine Sys2Proof.Safety

/-! ## Encoding -/

/-- R77 (marked there as derived from R64 to R68 and R72): `decode(encode(x)) = x` for every command, with every operand at every
value. -/
def Obligations.DecodeOfEncodeIsTheCommand : Prop :=
  ∀ i : Instr, i.wellFormed = true → decode (encode i) = .command i

/-- R77 (marked there as derived): `encode(decode(w)) = w` for every word `decode` does not refuse. -/
def Obligations.EncodeOfDecodeIsTheWord : Prop :=
  ∀ (w : Word) (i : Instr), decode w = .command i → encode i = w ∧ i.wellFormed = true

/-- R72 with R64 to R68 and the opcode map R70, over the bits of the word as a number: the reserved opcodes first, then bits 27:16, then
the format's own must-be-zero bits; otherwise the command, its operand the low bits. The encoding is the spec's own decision D2, the
refusals D3. -/
def Obligations.DecoderFollowsTheOpcodeMap : Prop :=
  ∀ w : Word,
    let op := w.toNat / 2 ^ 28
    let rsv := w.toNat / 2 ^ 16 % 2 ^ 12
    let operand := w.toNat % 2 ^ 16
    (op = 0 ∨ op = 14 ∨ op = 15 → decode w = .refuse .reservedOpcode) ∧
    (¬(op = 0 ∨ op = 14 ∨ op = 15) → rsv ≠ 0 → decode w = .refuse .reservedBitsNonZero) ∧
    (¬(op = 0 ∨ op = 14 ∨ op = 15) → rsv = 0 →
      ((op = 1 ∨ op = 2 ∨ op = 4 ∨ op = 6 ∨ op = 7 ∨ op = 8) → operand ≠ 0 → decode w = .refuse .reservedBitsNonZero) ∧
      ((op = 5 ∨ op = 10 ∨ op = 11 ∨ op = 12) → 256 ≤ operand → decode w = .refuse .reservedBitsNonZero) ∧
      (op = 13 → 4 ≤ operand → decode w = .refuse .reservedBitsNonZero) ∧
      (op = 1 → operand = 0 → decode w = .command .init) ∧
      (op = 2 → operand = 0 → decode w = .command .clear) ∧
      (op = 3 → decode w = .command (.write (BitVec.ofNat 16 operand))) ∧
      (op = 4 → operand = 0 → decode w = .command .printBegin) ∧
      (op = 5 → operand < 256 → decode w = .command (.printChar (BitVec.ofNat 8 operand))) ∧
      (op = 6 → operand = 0 → decode w = .command .printEnd) ∧
      (op = 7 → operand = 0 → decode w = .command .printRaw) ∧
      (op = 8 → operand = 0 → decode w = .command .refresh) ∧
      (op = 9 → decode w = .command (.encNibble (BitVec.ofNat 16 operand))) ∧
      (op = 10 → operand < 256 → decode w = .command (.charValue (BitVec.ofNat 8 operand))) ∧
      (op = 11 → operand < 256 → decode w = .command (.charCode (BitVec.ofNat 8 operand))) ∧
      (op = 12 → operand < 256 → decode w = .command (.charValid (BitVec.ofNat 8 operand))) ∧
      (op = 13 → operand < 4 → decode w = .command (.readSlot (BitVec.ofNat 2 operand))))

/-- Words written out from the encodings of R65 to R68 and R74: one of each format, and one refused word of each reason. -/
def Obligations.SampleWordsDecode : Prop :=
  decode 0x3000ABCD#32 = .command (.write 0xABCD#16) ∧
  decode 0x50000033#32 = .command (.printChar 0x33#8) ∧
  decode 0xD0000002#32 = .command (.readSlot 2#2) ∧
  decode 0x80000000#32 = .command .refresh ∧
  decode 0xE0000000#32 = .refuse .reservedOpcode ∧
  decode 0x50000133#32 = .refuse .reservedBitsNonZero

/-- R75 (decision D10): PRINT of a text of L bytes is L + 2 words that decode to PRINT_BEGIN, the characters last first, and
PRINT_END. -/
def Obligations.PrintExpandsLastCharacterFirst : Prop :=
  ∀ text : List Byte,
    (printWords text).length = text.length + 2 ∧
    (printWords text).head? = some 0x40000000#32 ∧
    (printWords text).getLast? = some 0x60000000#32 ∧
    ∀ j (h : j < text.length),
      ((printWords text)[text.length - j]?).map decode = some (.command (.printChar text[j]))

/-- R74 (decision D2), its own three examples: one command a line, `word = (op << 28) | operand`. -/
def Obligations.AssemblerExamples : Prop :=
  assembleLine ['W', 'R', 'I', 'T', 'E', ' ', '0', 'x', 'A', 'B', 'C', 'D'] = some [0x3000ABCD#32] ∧
  assembleLine ['P', 'R', 'I', 'N', 'T', '_', 'C', 'H', 'A', 'R', ' ', '\'', '3', '\''] = some [0x50000033#32] ∧
  assembleLine ['R', 'E', 'A', 'D', '_', 'S', 'L', 'O', 'T', ' ', '2'] = some [0xD0000002#32]

/-! ## The step -/

/-- R54, R7: the command at the head of the total order is the next step, and the step is `exec` of the command its word spells, in the
state in which it has left the inbox. The overlap window stays open only for a tick's REFRESH issued during the command before
(decision D21; log 6, 7). -/
def Obligations.StepRunsTheDecodedCommand : Prop :=
  ∀ (s : State) (q : Request) (rest : List Request) (i : Instr),
    Running s → s.inbox = q :: rest → decode q.word = .command i →
    step s = exec i { s with
      inbox := rest
      issuer := some q.agent
      overlap := if q = .tick true then s.overlap else none }

/-- R72 (decision D3): a refused word sets the fault mark with the refusal reason and changes no piece of the spec's state. That the word
leaves `inbox`, that `issuer` says who presented it (log 7) and that the overlap window closes (decision D21, log 6) concern fields of
the model's own, as does what is put out (log 10). -/
def Obligations.RefusedWordOnlyMarksTheBlock : Prop :=
  ∀ (s : State) (w : Word) (rest : List Request) (reason : DecodeRefusal),
    Running s → s.inbox = .host w :: rest → decode w = .refuse reason →
    step s = .next (marked { s with inbox := rest, issuer := some .host, overlap := none } (.refusedWord reason w))

/-- R39 (decision D27): a faulted block takes no further step, whatever is presented, and no command of any kind runs in it. -/
def Obligations.FaultedBlockTakesNoStep : Prop :=
  ∀ (s : State) (reason : FaultReason), s.faulted = some reason →
    step s = .fault (.blockFaulted reason) ∧ ∀ i, exec i s = .fault (.blockFaulted reason)

/-- R139 (decision D24): after reset the block waits for commands; with none presented a step changes nothing (log 8). -/
def Obligations.BlockWaitsForACommand : Prop :=
  (∀ s : State, Running s → s.inbox = [] → step s = .next s) ∧ step State.reset = .next State.reset

/-- R123 and R89: no operand value is turned into a fault or a refusal. The lookups, READ_SLOT, WRITE with no print open and PRINT_CHAR with
one open end unmarked for every operand. Beside it the model's own form of an end: in a block that is not faulted every command ends
in a next state, a faulting one in the state with the mark (log 9), and so does every step, an idle one too (log 8). -/
def Obligations.EveryCommandEndsInANextState : Prop :=
  (∀ (s : State) (i : Instr), Running s →
    IsLookup i ∨ (∃ idx, i = .readSlot idx) ∨ ((∃ v, i = .write v) ∧ s.prState = .idle) ∨
      ((∃ c, i = .printChar c) ∧ s.prState ≠ .idle) →
    ∃ t, exec i s = .next t ∧ t.faulted = none) ∧
  (∀ (s : State) (i : Instr), Running s → ∃ t, exec i s = .next t) ∧
  ∀ s : State, Running s → ∃ t, step s = .next t

/-- R125's table, both ways, and what a mark leaves. When a block that holds no mark takes the step of a presented command, the step marks
it with a reason exactly in the table's cases, the reason recording what the table says (log 11); and then nothing else of the spec's
state has changed: no slot, cursor, port, `inited` or print state. That the command leaves `inbox`, that `issuer` says who presented it
(log 7), whether the overlap window stays open (decision D21, log 6) and that nothing is put out (log 10) are the model's. -/
def Obligations.FaultsAreTheClosedList : Prop :=
  ∀ (s : State) (q : Request) (rest : List Request) (reason : FaultReason), Running s → s.inbox = q :: rest →
    ((∃ t, step s = .next t ∧ t.faulted = some reason) ↔
      (reason = .notInitialised ∧ decode q.word = .command .refresh ∧ s.inited = false) ∨
      (∃ i, reason = .printOpen i ∧ decode q.word = .command i ∧ NeedsPrintClosed i ∧ s.prState ≠ .idle) ∨
      (∃ i, reason = .printNotOpen i ∧ decode q.word = .command i ∧ NeedsPrintOpen i ∧ s.prState = .idle) ∨
      (∃ r, reason = .refusedWord r q.word ∧ decode q.word = .refuse r)) ∧
    ∀ t, step s = .next t → t.faulted = some reason →
      t = marked { s with
        inbox := rest
        issuer := some q.agent
        overlap := if q = .tick true then s.overlap else none } reason

/-! ## Lookups -/

/-- R80 with R79: ENC_NIBBLE responds the table entry of its operand's low nibble, whatever the higher bits; bit 7 is 0. -/
def Obligations.EncNibbleRespondsTheTableEntry : Prop :=
  ∀ (s : State) (x : BitVec 16), Running s →
    encode (.encNibble x) = 0x90000000#32 ||| x.setWidth 32 ∧
    exec (.encNibble x) s = .next { s with out := answer s (.bits8 (Config.segTable (BitVec.ofNat 4 (x.toNat % 16)))) } ∧
    (Config.segTable (BitVec.ofNat 4 (x.toNat % 16))).getLsbD 7 = false

/-- R82 with R81: CHAR_VALUE gives '0'..'9' as 0..9, 'A'..'F' as 10..15, 'a'..'f' as 10..15 or 0 by `ROM_LOWERCASE`, and 0 for every
other byte. -/
def Obligations.CharValueMapsHexDigits : Prop :=
  ∀ (s : State) (c : Byte), Running s →
    encode (.charValue c) = 0xA0000000#32 ||| c.setWidth 32 ∧
    ∃ v : Nibble, exec (.charValue c) s = .next { s with out := answer s (.bits4 v) } ∧
      v.toNat =
        if 0x30 ≤ c.toNat ∧ c.toNat ≤ 0x39 then c.toNat - 0x30
        else if 0x41 ≤ c.toNat ∧ c.toNat ≤ 0x46 then c.toNat - 0x41 + 10
        else if 0x61 ≤ c.toNat ∧ c.toNat ≤ 0x66 ∧ Config.romLowercase = true then c.toNat - 0x61 + 10
        else 0

/-- 40_rom_lookup.md section 3: CHAR_CODE gives dash 0x40 and blank 0x00 whatever the table holds, the letter's or digit's entry for hex
digits, and (the spec's decision D14) entry 0 for every other byte; bit 7 is 0. -/
def Obligations.CharCodeMapsCharacters : Prop :=
  ∀ (s : State) (c : Byte), Running s →
    encode (.charCode c) = 0xB0000000#32 ||| c.setWidth 32 ∧
    ∃ v : Byte, exec (.charCode c) s = .next { s with out := answer s (.bits8 v) } ∧ v.getLsbD 7 = false ∧
      v =
        if c.toNat = 0x2D then 0x40#8
        else if c.toNat = 0x20 then 0x00#8
        else if 0x30 ≤ c.toNat ∧ c.toNat ≤ 0x39 then Config.segTable (BitVec.ofNat 4 (c.toNat - 0x30))
        else if 0x41 ≤ c.toNat ∧ c.toNat ≤ 0x46 then Config.segTable (BitVec.ofNat 4 (c.toNat - 0x41 + 10))
        else if 0x61 ≤ c.toNat ∧ c.toNat ≤ 0x66 ∧ Config.romLowercase = true then
          Config.segTable (BitVec.ofNat 4 (c.toNat - 0x61 + 10))
        else Config.segTable 0#4

/-- 40_rom_lookup.md section 4 (the command's own normalisation is decision D15): CHAR_VALID answers true for exactly the 25 bytes
0x20, 0x2D, 0x2E, 0x30..0x39, 0x41..0x46, 0x61..0x66. -/
def Obligations.CharValidAcceptsExactly25Bytes : Prop :=
  ∀ (s : State) (c : Byte), Running s →
    encode (.charValid c) = 0xC0000000#32 ||| c.setWidth 32 ∧
    ∃ b : Bool, exec (.charValid c) s = .next { s with out := answer s (.bool b) } ∧
      (b = true ↔
        c.toNat = 0x20 ∨ c.toNat = 0x2D ∨ c.toNat = 0x2E ∨ (0x30 ≤ c.toNat ∧ c.toNat ≤ 0x39) ∨
        (0x41 ≤ c.toNat ∧ c.toNat ≤ 0x46) ∨ (0x61 ≤ c.toNat ∧ c.toNat ≤ 0x66))

/-- R87: the lookups read no state. Each has ONE response, the same in every state that is not faulted, whatever INIT and the print
have done; it changes no state and emits no port event. -/
def Obligations.LookupsReadNoState : Prop :=
  ∀ i : Instr, IsLookup i →
    ∃ r : Response, ∀ s : State, Running s → exec i s = .next { s with out := answer s r }

/-! ## Load commands -/

/-- R94, with three clauses that are not its plain words: INIT makes the set-up calls on both ports. The first one gives both ports a
level, whatever it is (a draw, decision D6; that the ports move here although R93 says otherwise is log 18), and sets `inited`; a later
one changes no state (R95, decision D8, log 13); while a print is open it faults (decision D11). Slots and cursor are unchanged. The
draw counter and the record of what is put out are the model's (log 5, 10). -/
def Obligations.InitConfiguresBothPorts : Prop :=
  encode .init = 0x10000000#32 ∧
  ∀ s : State, Running s →
    (s.prState = .idle → s.inited = false → ∃ (seg : Byte) (sel : BitVec 4) (n : Nat),
      exec .init s = .next { s with
        inited := true, segOut := .level seg, selOut := .level sel, draws := n
        out := { answer s .none with segSetup := [.init, .portModeOutput], selSetup := [.init, .portModeOutput] } }) ∧
    (s.prState = .idle → s.inited = true →
      exec .init s = .next { s with
        out := { answer s .none with segSetup := [.init, .portModeOutput], selSetup := [.init, .portModeOutput] } }) ∧
    (s.prState ≠ .idle → exec .init s = .next (marked s (.printOpen .init)))

/-- R96 with R92: CLEAR makes every slot {0x00, 0, 0x00}, so every `hasDecimal` is false, and changes nothing else, the cursor included
(decision D9, log 13), but that the codes before may still be read by an overlapping REFRESH (decision D21; the field `overlap` is the
model's, log 6); while a print is open it faults (decision D11). -/
def Obligations.ClearBlanksEverySlot : Prop :=
  encode .clear = 0x20000000#32 ∧
  ∀ s : State, Running s →
    (s.prState = .idle → ∃ t, exec .clear s = .next t ∧
      t = { s with slots := t.slots, overlap := some s.slots.codes, out := answer s .none } ∧
      ∀ i, t.slots.get i = { code := 0x00#8, value := 0#4, ch := 0x00#8 } ∧ (t.slots.get i).hasDecimal = false) ∧
    (s.prState ≠ .idle → exec .clear s = .next (marked s (.printOpen .clear)))

/-- R98: WRITE puts nibble `v[15-4i : 12-4i]` into slot i, with its table pattern (bit 7 clear) and its hex digit (the byte values of
`hexchar` are decision D12, log 13 and 17), for every 16-bit value, and changes nothing else but the overlap window (decision D21; the
field is the model's, log 6); while a print is open it faults (decision D11). -/
def Obligations.WriteShowsFourHexDigits : Prop :=
  ∀ (s : State) (v : BitVec 16), Running s →
    encode (.write v) = 0x30000000#32 ||| v.setWidth 32 ∧
    (s.prState = .idle → ∃ t, exec (.write v) s = .next t ∧
      t = { s with slots := t.slots, overlap := some s.slots.codes, out := answer s .none } ∧
      ∀ i : SlotIndex,
        let n := v.toNat / 2 ^ (12 - 4 * i.toNat) % 16
        (t.slots.get i).code = Config.segTable (BitVec.ofNat 4 n) ∧
        (t.slots.get i).hasDecimal = false ∧
        (t.slots.get i).value.toNat = n ∧
        (t.slots.get i).ch.toNat = if n ≤ 9 then 0x30 + n else 0x41 + (n - 10)) ∧
    (s.prState ≠ .idle → exec (.write v) s = .next (marked s (.printOpen (.write v))))

/-- R99 (marked there as derived from R98): the four values after WRITE, most significant first, are the value written. -/
def Obligations.WriteRoundTrip : Prop :=
  ∀ (s : State) (v : BitVec 16), Running s → s.prState = .idle →
    ∃ t, exec (.write v) s = .next t ∧
      (t.slots.get 0#2).value ++ ((t.slots.get 1#2).value ++ ((t.slots.get 2#2).value ++ (t.slots.get 3#2).value)) = v

/-- 41_digit_load.md section 7 (READ_SLOT is the spec's decision D20): the response packs code in [7:0], value in [11:8], ch in [19:12] and
hasDecimal in bit 20, for every slot, in every state that is not faulted; nothing changes. -/
def Obligations.ReadSlotRespondsTheSlotView : Prop :=
  ∀ (s : State) (idx : SlotIndex), Running s →
    encode (.readSlot idx) = 0xD0000000#32 ||| idx.setWidth 32 ∧
    ∃ r : SlotView, exec (.readSlot idx) s = .next { s with out := answer s (.slotView r) } ∧
      r.extractLsb' 0 8 = (s.slots.get idx).code ∧
      r.extractLsb' 8 4 = (s.slots.get idx).value ∧
      r.extractLsb' 12 8 = (s.slots.get idx).ch ∧
      r.getLsbD 20 = (s.slots.get idx).code.getLsbD 7

/-- 41_digit_load.md section 6 (the stub is kept by the spec's decision D19): where no print is open PRINT_RAW answers false and changes no
state. While a print is open it faults (decision D11) and, as every command that marks the block, responds nothing (log 10, which reads
R111's corner case as speaking of the states in which the command responds). -/
def Obligations.PrintRawAnswersFalse : Prop :=
  encode .printRaw = 0x70000000#32 ∧
  ∀ s : State, Running s →
    (s.prState = .idle → exec .printRaw s = .next { s with out := answer s (.bool false) }) ∧
    (s.prState ≠ .idle → exec .printRaw s = .next (marked s (.printOpen .printRaw)))

/-! ## Print -/

/-- R101: PRINT_BEGIN blanks the slots and opens the walk at slot 3, and changes nothing else but the overlap window (decision D21; the
field is the model's, log 6); while a print is open it faults (decision D11). -/
def Obligations.PrintBeginOpensTheWalk : Prop :=
  encode .printBegin = 0x40000000#32 ∧
  ∀ s : State, Running s →
    (s.prState = .idle → ∃ t, exec .printBegin s = .next t ∧
      t = { s with
        slots := t.slots, overlap := some s.slots.codes, prPos := 3#2, prState := .walk, out := answer s .none } ∧
      ∀ i, t.slots.get i = { code := 0x00#8, value := 0#4, ch := 0x00#8 }) ∧
    (s.prState ≠ .idle → exec .printBegin s = .next (marked s (.printOpen .printBegin)))

/-- R103: a character that is not accepted after case normalisation aborts the walk, writes no slot and changes nothing else; the print
then reports failure, and the slots stay as they were. -/
def Obligations.InvalidCharacterAbortsThePrint : Prop :=
  ∀ (s : State) (c : Byte), Running s → s.prState = .walk →
    ¬(c.toNat = 0x20 ∨ c.toNat = 0x2D ∨ c.toNat = 0x2E ∨ (0x30 ≤ c.toNat ∧ c.toNat ≤ 0x39) ∨
      (0x41 ≤ c.toNat ∧ c.toNat ≤ 0x46) ∨ (0x61 ≤ c.toNat ∧ c.toNat ≤ 0x66)) →
    exec (.printChar c) s = .next { s with prState := .aborted, out := answer s .none } ∧
    exec .printEnd { s with prState := .aborted, out := answer s .none } =
      .next { s with prState := .idle, out := answer s (.bool false) }

/-- R104: '.' sets bit 7 of the most recently written slot, or of slot 0 when none is written yet (`pr_pos` 3), and changes nothing
else. -/
def Obligations.DotSetsTheDecimalPoint : Prop :=
  ∀ s : State, Running s → s.prState = .walk →
    ∃ (k : SlotIndex) (t : State), k.toNat = (s.prPos.toNat + 1) % 4 ∧
      exec (.printChar 0x2E#8) s = .next t ∧
      t = { s with slots := t.slots, out := answer s .none } ∧
      t.slots.get k = { s.slots.get k with code := (s.slots.get k).code ||| 0x80#8 } ∧
      ∀ j, j ≠ k → t.slots.get j = s.slots.get j

/-- R105 and R106: an accepted character that is no '.' ORs its pattern into the walk's slot and sets its value and its display character,
the normalised one (decision D16, log 13); the walk moves one slot leftward, or stops once slot 0 is written. Then every further
character is ignored, a '.' and an invalid one too (R107, decision D28, log 13; R106 itself speaks of digit characters only). Nothing
else changes. -/
def Obligations.DigitIsWrittenAndTheWalkMovesLeft : Prop :=
  ∀ (s : State) (c : Byte), Running s → s.prState = .walk → Machine.isValidChar (upper c) = true → upper c ≠ 0x2E#8 →
    ∃ t, exec (.printChar c) s = .next t ∧
      t = { s with slots := t.slots, prState := t.prState, prPos := t.prPos, out := answer s .none } ∧
      t.slots.get s.prPos =
        { code := (s.slots.get s.prPos).code ||| charToCode (upper c)
          value := charToValue (upper c)
          ch := upper c } ∧
      (∀ j, j ≠ s.prPos → t.slots.get j = s.slots.get j) ∧
      (s.prPos.toNat = 0 → t.prState = .stopped ∧ t.prPos = s.prPos ∧
        ∀ d, exec (.printChar d) t = .next { t with out := answer t .none }) ∧
      (s.prPos.toNat ≠ 0 → t.prState = .walk ∧ t.prPos.toNat = s.prPos.toNat - 1)

/-- 41_digit_load.md section 5 (what the walk does after it has ended is the spec's decision D28): in STOPPED and ABORTED a PRINT_CHAR
changes nothing whatever the character; with no print open it faults. -/
def Obligations.CharacterAfterTheWalkIsIgnored : Prop :=
  ∀ (s : State) (c : Byte), Running s →
    encode (.printChar c) = 0x50000000#32 ||| c.setWidth 32 ∧
    (s.prState = .stopped ∨ s.prState = .aborted → exec (.printChar c) s = .next { s with out := answer s .none }) ∧
    (s.prState = .idle → exec (.printChar c) s = .next (marked s (.printNotOpen (.printChar c))))

/-- R108: PRINT_END closes the print and answers true unless the walk was aborted; the slots are unchanged; with no print open it
faults. -/
def Obligations.PrintEndReturnsTheResult : Prop :=
  encode .printEnd = 0x60000000#32 ∧
  ∀ s : State, Running s →
    (s.prState = .walk ∨ s.prState = .stopped →
      exec .printEnd s = .next { s with prState := .idle, out := answer s (.bool true) }) ∧
    (s.prState = .aborted → exec .printEnd s = .next { s with prState := .idle, out := answer s (.bool false) }) ∧
    (s.prState = .idle → exec .printEnd s = .next (marked s (.printNotOpen .printEnd)))

/-- R100: the commands PRINT expands to, in this order with no other host command between them, have the effect and the result of the
program `print(t)`, for every text, whatever number of REFRESH commands come before and between them; the program leaves the cursor,
the ports and `inited` alone, and no print is left open. -/
def Obligations.PrintCommandsRunThePrintProgram : Prop :=
  ∀ (s : State) (text : List Byte) (before : List Instr), Running s → s.prState = .idle →
    (before.filter fun i => decide (i ≠ .refresh)) ++ [.printEnd] = printCommands text →
    (.refresh ∈ before → s.inited = true) →
    ∃ t, runCommands (before ++ [.printEnd]) s = .next t ∧
      t.slots = (printProgram text).1 ∧
      t.out = answer s (.bool (printProgram text).2) ∧
      t.faulted = none ∧ t.prState = .idle ∧ t.inited = s.inited ∧ t.inbox = s.inbox ∧ t.issuer = s.issuer ∧
      (.refresh ∉ before → t.cursor = s.cursor ∧ t.segOut = s.segOut ∧ t.selOut = s.selOut ∧ t.draws = s.draws)

/-- R109 (marked there as derived from R100): the closed form of a valid print, digit character m from the right in slot 3 - m. -/
def Obligations.ValidPrintHasTheClosedForm : Prop :=
  ∀ (leadingDots : Nat) (groups : List (Byte × Nat)),
    (∀ g ∈ groups, Machine.isValidChar (upper g.1) = true ∧ g.1 ≠ 0x2E#8) →
    (∀ i : SlotIndex, (printProgram (groupedText leadingDots groups)).1.get i = closedSlot leadingDots groups i) ∧
    (printProgram (groupedText leadingDots groups)).2 = true

/-- R91 (decision D11): the state checks of the print sequencing, over all commands. A command that needs no print open faults while one
is; one that needs a print open faults while none is; every other command but REFRESH leaves the block unmarked. -/
def Obligations.PrintSequencingFaults : Prop :=
  ∀ (s : State) (i : Instr), Running s →
    (NeedsPrintClosed i → s.prState ≠ .idle → exec i s = .next (marked s (.printOpen i))) ∧
    (NeedsPrintOpen i → s.prState = .idle → exec i s = .next (marked s (.printNotOpen i))) ∧
    ((NeedsPrintClosed i → s.prState = .idle) → (NeedsPrintOpen i → s.prState ≠ .idle) → i ≠ .refresh →
      ∃ t, exec i s = .next t ∧ t.faulted = none)

/-! ## Refresh -/

/-- R113 with R116 and R117: REFRESH asserts the select line of the slot under the cursor, drives that slot's whole code, then advances
the cursor by 1 mod 4, in every print state; slots are not changed. With no multi-slot command in progress the code is the slot's;
with one it is the old or the new code (R52, decision D21; the field `overlap` and the draw counter are the model's, log 6). Before
INIT it faults with no port event and no cursor change (R114, decision D7). -/
def Obligations.RefreshShowsTheSlotUnderTheCursor : Prop :=
  encode .refresh = 0x80000000#32 ∧
  ∀ s : State, Running s →
    (s.inited = true → ∃ (seg : Byte) (next : SlotIndex) (n : Nat),
      exec .refresh s = .next { s with
        selOut := .level (BitVec.ofNat 4 (2 ^ (3 - s.cursor.toNat)))
        segOut := .level seg
        cursor := next
        draws := n
        out := { answer s .none with
          events := [.selWrite (BitVec.ofNat 4 (2 ^ (3 - s.cursor.toNat))), .segWrite seg] } } ∧
      next.toNat = (s.cursor.toNat + 1) % 4 ∧
      (s.overlap = none → seg = (s.slots.get s.cursor).code ∧ n = s.draws) ∧
      (∀ old, s.overlap = some old → seg = (s.slots.get s.cursor).code ∨ seg = old.get s.cursor)) ∧
    (s.inited = false → exec .refresh s = .next (marked s .notInitialised))

/-- R118: the refresh state machine. Its four rows, for a REFRESH that overlaps nothing; its initial state 0; and no other command
changes its state. -/
def Obligations.RefreshStateMachine : Prop :=
  State.reset.cursor = 0#2 ∧
  (∀ (s t : State), Running s → s.inited = true → s.overlap = none → exec .refresh s = .next t →
    (s.cursor = 0#2 → t.out.events = [.selWrite 0b1000#4, .segWrite s.slots.at0.code] ∧ t.cursor = 1#2) ∧
    (s.cursor = 1#2 → t.out.events = [.selWrite 0b0100#4, .segWrite s.slots.at1.code] ∧ t.cursor = 2#2) ∧
    (s.cursor = 2#2 → t.out.events = [.selWrite 0b0010#4, .segWrite s.slots.at2.code] ∧ t.cursor = 3#2) ∧
    (s.cursor = 3#2 → t.out.events = [.selWrite 0b0001#4, .segWrite s.slots.at3.code] ∧ t.cursor = 0#2)) ∧
  ∀ (s t : State) (i : Instr), i ≠ .refresh → exec i s = .next t → t.cursor = s.cursor

/-- R119 (marked there as derived from R117 and R118): from any cursor, four REFRESH with no slot write between them show each slot once,
in the order c, c+1, c+2, c+3 mod 4, and leave the cursor and every slot as they were. -/
def Obligations.FourRefreshesShowEachSlotOnce : Prop :=
  ∀ s : State, Running s → s.inited = true → s.overlap = none →
    ∃ t1 t2 t3 t4 : State,
      exec .refresh s = .next t1 ∧ exec .refresh t1 = .next t2 ∧ exec .refresh t2 = .next t3 ∧ exec .refresh t3 = .next t4 ∧
      t1.out.events = [.selWrite (selectBit s.cursor), .segWrite (s.slots.get s.cursor).code] ∧
      t2.out.events = [.selWrite (selectBit (s.cursor + 1#2)), .segWrite (s.slots.get (s.cursor + 1#2)).code] ∧
      t3.out.events = [.selWrite (selectBit (s.cursor + 2#2)), .segWrite (s.slots.get (s.cursor + 2#2)).code] ∧
      t4.out.events = [.selWrite (selectBit (s.cursor + 3#2)), .segWrite (s.slots.get (s.cursor + 3#2)).code] ∧
      t4.cursor = s.cursor ∧ t4.slots = s.slots

/-- 42_refresh_mux.md section 1 (the reading of a 1 bit as the asserted level is decision D33): exactly one select bit is set in every
select write, the bit of the slot the cursor was on, the leftmost digit highest. -/
def Obligations.RefreshAssertsExactlyOneSelectLine : Prop :=
  ∀ s : State, Running s → s.inited = true →
    ∃ (v : BitVec 4) (seg : Byte) (t : State),
      exec .refresh s = .next t ∧ t.out.events = [.selWrite v, .segWrite seg] ∧ t.selOut = .level v ∧
      ∀ k : Fin 4, v.getLsbD (3 - k.val) = decide (k.val = s.cursor.toNat)

/-- 70_reset_and_hazards.md section 3 and 20_memory.md section 4 (the order of the two writes is decision D22): between the two port
writes of a REFRESH the newly selected digit is driven with the previous pattern. -/
def Obligations.SelectChangesBeforeTheSegments : Prop :=
  ∀ s : State, Running s → s.inited = true →
    ∃ t, exec .refresh s = .next t ∧
      portLevels s.selOut s.segOut t.out.events = [(t.selOut, s.segOut), (t.selOut, t.segOut)]

/-- 20_memory.md section 3 (the draw is the spec's decision D21; log 6): a tick REFRESH that comes after CLEAR, WRITE or PRINT_BEGIN shows
the code the command wrote, or, if it was issued while the command was in progress, that code or the one before it. -/
def Obligations.OverlappingRefreshShowsOldOrNew : Prop :=
  ∀ (s : State) (i : Instr) (during : Bool) (rest : List Request),
    Running s → s.prState = .idle → s.inited = true → WritesAllSlots i →
    s.inbox = .host (encode i) :: .tick during :: rest →
    ∃ (t u : State) (seg : Byte), step s = .next t ∧ step t = .next u ∧ u.segOut = .level seg ∧ u.slots = t.slots ∧
      (during = false → seg = (t.slots.get s.cursor).code) ∧
      (during = true → seg = (t.slots.get s.cursor).code ∨ seg = (s.slots.get s.cursor).code)

/-- 20_memory.md section 4 (a critical section is the host's guarantee that no tick REFRESH overlaps its commands): while it holds, every
REFRESH step after INIT shows the code the slot holds, and the guarantee goes on holding. -/
def Obligations.TickHeldOffShowsCurrentCodes : Prop :=
  ∀ (s t : State) (q : Request) (rest : List Request),
    Running s → s.inited = true → TickHeldOff s → s.inbox = q :: rest → decode q.word = .command .refresh → step s = .next t →
    t.segOut = .level (s.slots.get s.cursor).code ∧ t.slots = s.slots ∧ TickHeldOff t

/-- R97: after CLEAR, and with no other slot write, every one of any number of REFRESH writes 0 to the segment port; CLEAR itself moves no
port, and the cursor ends N further on. -/
def Obligations.RefreshesAfterClearAreBlank : Prop :=
  ∀ (s : State) (n : Nat), Running s → s.prState = .idle → s.inited = true →
    (∃ t, exec .clear s = .next t ∧ t.segOut = s.segOut ∧ t.selOut = s.selOut ∧ t.out.events = []) ∧
    ∃ (t : State) (v : BitVec 4), runCommands (.clear :: List.replicate (n + 1) .refresh) s = .next t ∧
      t.out.events = [.selWrite v, .segWrite 0x00#8] ∧ t.segOut = .level 0x00#8 ∧
      t.cursor.toNat = (s.cursor.toNat + (n + 1)) % 4

/-! ## Reset and whole-machine rules -/

/-- R138: construction puts slots at RESET_SLOTS (whatever they are), the cursor at 0, `inited` false, `pr_state` IDLE, the ports undriven
and no fault. -/
def Obligations.ResetLeavesTheStatedValues : Prop :=
  (∀ i : SlotIndex, State.reset.slots.get i =
    { code := Config.resetCode i, value := Config.resetValue i, ch := Config.resetCh i }) ∧
  State.reset.cursor = 0#2 ∧ State.reset.inited = false ∧ State.reset.prState = .idle ∧
  State.reset.segOut = .undriven ∧ State.reset.selOut = .undriven ∧ State.reset.faulted = none

/-- 10_state.md section 5 (the levels are decision D6): the ports are undriven exactly until INIT has run, and every step keeps it. -/
def Obligations.StepKeepsPortsFollowInit : Prop :=
  ∀ s t : State, PortsFollowInit s → step s = .next t → PortsFollowInit t

/-- The ports follow INIT in the state at construction. -/
def Obligations.ResetPortsFollowInit : Prop := PortsFollowInit State.reset

/-- R26 and R141 (both marked there as derived): from a state whose slot codes are reachable ones, and in which an open walk has only blank
slots ahead of it, every step leaves such a state. -/
def Obligations.StepKeepsCodesReachable : Prop :=
  ∀ s t : State, CodesReachable s → WalkAheadBlank s → step s = .next t → CodesReachable t ∧ WalkAheadBlank t

/-- R140 and R141 (the first by decisions D5 and D7, the second marked as derived): CLEAR, WRITE and PRINT_BEGIN give every slot a
reachable code whatever the slots held, the contents at construction included. -/
def Obligations.LoadMakesCodesReachable : Prop :=
  ∀ (s : State) (i : Instr), Running s → s.prState = .idle → WritesAllSlots i →
    ∃ t, exec i s = .next t ∧ CodesReachable t ∧ WalkAheadBlank t

/-- Derived from 10_state.md section 2 with the write rules of 41_digit_load.md: a slot's value, display character and pattern go on saying
the same thing, but for the decimal point. -/
def Obligations.StepKeepsSlotsCoherent : Prop :=
  ∀ s t : State, SlotsCoherent s → WalkAheadBlank s → step s = .next t → SlotsCoherent t ∧ WalkAheadBlank t

/-- 42_refresh_mux.md and 20_memory.md section 4: a step puts out no port write, or one select write of a single line and then one segment
write. -/
def Obligations.StepKeepsOneHotEvents : Prop :=
  ∀ s t : State, OneHotEvents s.out.events → step s = .next t → OneHotEvents t.out.events

/-- 10_state.md section 2 (the table of who writes a slot): only CLEAR, WRITE, PRINT_BEGIN and PRINT_CHAR change a slot. PRINT_CHAR leaves
every slot but one alone: for '.' the slot after the walk's (R104), for another accepted character the walk's own (R105); outside an
open walk, and for an invalid character, it changes none (R103, R107). Every other command leaves the slot file alone, and only a whole
load moves the overlap window (log 6). -/
def Obligations.SlotsChangeOnlyByLoadCommands : Prop :=
  ∀ (s t : State) (i : Instr), exec i s = .next t →
    (¬WritesAllSlots i → (∀ c, i ≠ .printChar c) → t.slots = s.slots) ∧
    (∀ c, i = .printChar c →
      (s.prState ≠ .walk ∨ Machine.isValidChar (upper c) = false → t.slots = s.slots) ∧
      (s.prState = .walk → c = 0x2E#8 → ∀ j, j ≠ s.prPos + 1#2 → t.slots.get j = s.slots.get j) ∧
      (s.prState = .walk → Machine.isValidChar (upper c) = true → c ≠ 0x2E#8 →
        ∀ j, j ≠ s.prPos → t.slots.get j = s.slots.get j)) ∧
    (¬WritesAllSlots i → t.overlap = s.overlap)

/-- 10_state.md sections 3 and 5: the cursor and the port events are REFRESH's alone; a port's level is changed by REFRESH and by the first
INIT (log 18) and by no other command; draws are taken by these two alone. -/
def Obligations.CursorAndPortsChangeOnlyByRefresh : Prop :=
  ∀ (s t : State) (i : Instr), exec i s = .next t →
    (i ≠ .refresh → t.cursor = s.cursor ∧ t.out.events = []) ∧
    (i ≠ .refresh → (i ≠ .init ∨ s.inited = true) → t.segOut = s.segOut ∧ t.selOut = s.selOut ∧ t.draws = s.draws)

/-- 10_state.md section 4: `inited` is INIT's alone, and only ever becomes true; the print state and the walk position are the PRINT
commands' alone; no command touches the presented commands or who issued it. -/
def Obligations.ControlStateChangesOnlyAsStated : Prop :=
  ∀ (s t : State) (i : Instr), exec i s = .next t →
    (i ≠ .init → t.inited = s.inited) ∧
    (s.inited = true → t.inited = true) ∧
    (i ≠ .printBegin → i ≠ .printEnd → (∀ c, i ≠ .printChar c) → t.prState = s.prState) ∧
    (i ≠ .printBegin → (∀ c, i ≠ .printChar c) → t.prPos = s.prPos) ∧
    t.inbox = s.inbox ∧ t.issuer = s.issuer

/-- 10_state.md section 6: of the commands that do not load all slots only PRINT_CHAR of '.' in an open walk changes a slot's decimal
point, and then it sets it; so a digit written over a point keeps it. CLEAR, WRITE and PRINT_BEGIN, where they run, leave every slot's
decimal point clear. -/
def Obligations.DecimalPointChangesOnlyAsStated : Prop :=
  ∀ (s t : State) (i : Instr) (k : SlotIndex), exec i s = .next t →
    (¬WritesAllSlots i → (t.slots.get k).hasDecimal = (s.slots.get k).hasDecimal ∨
      (i = .printChar 0x2E#8 ∧ s.prState = .walk ∧ (t.slots.get k).hasDecimal = true)) ∧
    (WritesAllSlots i → t.faulted = none → (t.slots.get k).hasDecimal = false)

/-- 10_state.md section 7 (the response channel is decision D26): a command that leaves the block unmarked responds once, with the type
of its kind, to the agent that issued it; one that marks it responds nothing (log 10). -/
def Obligations.ResponseHasItsTypeAndAddressee : Prop :=
  ∀ (s t : State) (i : Instr), exec i s = .next t →
    t.out.addressee = s.issuer ∧
    (t.faulted = none → ∃ r, t.out.response = some r ∧ RespondsAsTyped i r) ∧
    (t.faulted ≠ none → t.out.response = none)

/-- 10_state.md section 9 and 60_exceptions.md section 4: the cursor is hidden. No command but REFRESH depends on it. -/
def Obligations.CursorIsHiddenFromOtherCommands : Prop :=
  ∀ (s : State) (i : Instr) (c : SlotIndex), i ≠ .refresh →
    SameUpTo (fun t => { t with cursor := 0#2 }) (exec i s) (exec i { s with cursor := c })

/-- 10_state.md sections 4 and 8: `pr_pos` is meaningful only in WALK. Outside it no command reads it, the unspecified value at
construction included (log 2). -/
def Obligations.WalkPositionUnreadOutsideTheWalk : Prop :=
  ∀ (s : State) (i : Instr) (p : SlotIndex), s.prState ≠ .walk →
    SameUpTo (fun t => { t with prPos := 0#2 }) (exec i s) (exec i { s with prPos := p })

/-- 60_exceptions.md section 3 (one mode is decision D25): no command depends on which agent issues it; only the addressee of the
response does. -/
def Obligations.NoCommandDependsOnItsIssuer : Prop :=
  ∀ (s : State) (i : Instr) (a : Option Agent),
    SameUpTo (fun t => { t with issuer := none, out := { t.out with addressee := none } })
      (exec i s) (exec i { s with issuer := a })

/-- 10_state.md section 2: a slot's value and display character never reach a port, and only READ_SLOT reads them. Of any other command,
two slot files with the same codes give outcomes that agree in everything but the values and display characters of slots. -/
def Obligations.ValueAndCharacterNeverReachAPort : Prop :=
  ∀ (s : State) (f : SlotFile) (i : Instr), f.codes = s.slots.codes → (∀ idx, i ≠ .readSlot idx) →
    SameUpTo (fun t => { t with slots := t.slots.map fun x => { x with value := 0#4, ch := 0x00#8 } })
      (exec i s) (exec i { s with slots := f })
end

