-- ==== Sys2Proof/Laws/Codec.lean ====
section
/-! SUPPORT. The pieces of the codec: fields and words, opcodes and their bits, commands and their operands. -/

namespace Sys2Proof

/-- A bit of the word that has these fields. -/
theorem Fields.getLsbD_toWord (f : Fields) (i : Nat) :
    f.toWord.getLsbD i =
      if i < 28 then (if i < 16 then f.operand.getLsbD i else f.rsv.getLsbD (i - 16)) else f.op.getLsbD (i - 28) := by
  have h : f.toWord.getLsbD i = (f.op ++ (f.rsv ++ f.operand)).getLsbD i := rfl
  rw [h, BitVec.getLsbD_append, BitVec.getLsbD_append]

/-- The fields of the word that has these fields. -/
theorem Fields.ofWord_toWord (f : Fields) : Fields.ofWord f.toWord = f := by
  obtain ⟨op, rsv, operand⟩ := f
  simp only [Fields.ofWord, Fields.mk.injEq]
  refine ⟨?_, ?_, ?_⟩ <;> apply BitVec.eq_of_getLsbD_eq <;> intro i hi <;>
    simp only [BitVec.getLsbD_extractLsb', hi, decide_true, Bool.true_and, Fields.getLsbD_toWord]
  · simp
  · simp [show 16 + i < 28 by omega]
  · simp [show i < 28 by omega, hi]

/-- The word that has the fields of a word. -/
theorem Fields.toWord_ofWord (w : Word) : (Fields.ofWord w).toWord = w := by
  apply BitVec.eq_of_getLsbD_eq
  intro i hi
  simp only [Fields.getLsbD_toWord, Fields.ofWord, BitVec.getLsbD_extractLsb']
  by_cases h : i < 28
  · by_cases h2 : i < 16
    · simp [h, h2]
    · simp [h, h2, show i - 16 < 12 by omega, show 16 + (i - 16) = i by omega]
  · simp [h, show i - 28 < 4 by omega, show 28 + (i - 28) = i by omega]

/-- The opcode map read by its op column undoes `Opcode.bits`. -/
@[simp] theorem opcodeOf_bits (o : Opcode) : opcodeOf o.bits = some o := by
  cases o <;> rfl

/-- And `Opcode.bits` undoes it. -/
theorem bits_of_opcodeOf {b : BitVec 4} {o : Opcode} (h : opcodeOf b = some o) : o.bits = b := by
  revert b
  cases o <;> decide

/-- A widened byte has no high bits, and its low bits are the byte. -/
theorem byte_operand (c : Byte) :
    (c.setWidth 16).extractLsb' 8 8 = 0#8 ∧ (c.setWidth 16).extractLsb' 0 8 = c := by
  revert c
  decide

/-- A widened slot number has no high bits, and its low bits are the slot number. -/
theorem slot_operand (idx : SlotIndex) :
    (idx.setWidth 16).extractLsb' 2 14 = 0#14 ∧ (idx.setWidth 16).extractLsb' 0 2 = idx := by
  revert idx
  decide

/-- A command's own operand fits its format. -/
@[simp] theorem operandOk_operand (i : Instr) : i.opcode.format.operandOk i.operand = true := by
  cases i <;> simp [Instr.opcode, Opcode.format, Instr.operand, Format.operandOk, byte_operand, slot_operand]

/-- An opcode makes of a command's operand area the command. -/
@[simp] theorem command_operand (i : Instr) : i.opcode.command i.operand = i := by
  cases i <;> simp only [Instr.opcode, Opcode.command, Instr.operand, byte_operand, slot_operand]

/-- The canonical word as R74 writes it: `(op << 28) | operand`. -/
theorem encode_eq_or (i : Instr) : encode i = i.opcode.bits.setWidth 32 <<< 28 ||| i.operand.setWidth 32 := by
  apply BitVec.eq_of_getLsbD_eq
  intro j hj
  rw [encode, Fields.getLsbD_toWord]
  by_cases h : j < 28
  · by_cases h2 : j < 16
    · simp [h, h2, hj, Instr.fields]
    · simp [h, h2, hj, Instr.fields, BitVec.getLsbD_of_ge _ j (show 16 ≤ j by omega)]
  · simp [h, hj, Instr.fields, BitVec.getLsbD_of_ge _ j (show 16 ≤ j by omega)]

end Sys2Proof
end

