-- ==== Sys2Proof/Laws/State.lean ====
section
/-! SUPPORT. What each named update of State leaves in each field, so that no proof unfolds a record update. -/

namespace Sys2Proof.Machine

@[simp] theorem State.setSlot_slots (s : State) (i : SlotIndex) (x : Slot) : (s.setSlot i x).slots = s.slots.set i x := rfl
@[simp] theorem State.setSlot_cursor (s : State) (i : SlotIndex) (x : Slot) : (s.setSlot i x).cursor = s.cursor := rfl
@[simp] theorem State.setSlot_inited (s : State) (i : SlotIndex) (x : Slot) : (s.setSlot i x).inited = s.inited := rfl
@[simp] theorem State.setSlot_prState (s : State) (i : SlotIndex) (x : Slot) : (s.setSlot i x).prState = s.prState := rfl
@[simp] theorem State.setSlot_prPos (s : State) (i : SlotIndex) (x : Slot) : (s.setSlot i x).prPos = s.prPos := rfl
@[simp] theorem State.setSlot_segOut (s : State) (i : SlotIndex) (x : Slot) : (s.setSlot i x).segOut = s.segOut := rfl
@[simp] theorem State.setSlot_selOut (s : State) (i : SlotIndex) (x : Slot) : (s.setSlot i x).selOut = s.selOut := rfl
@[simp] theorem State.setSlot_faulted (s : State) (i : SlotIndex) (x : Slot) : (s.setSlot i x).faulted = s.faulted := rfl
@[simp] theorem State.setSlot_inbox (s : State) (i : SlotIndex) (x : Slot) : (s.setSlot i x).inbox = s.inbox := rfl
@[simp] theorem State.setSlot_issuer (s : State) (i : SlotIndex) (x : Slot) : (s.setSlot i x).issuer = s.issuer := rfl
@[simp] theorem State.setSlot_overlap (s : State) (i : SlotIndex) (x : Slot) : (s.setSlot i x).overlap = s.overlap := rfl
@[simp] theorem State.setSlot_draws (s : State) (i : SlotIndex) (x : Slot) : (s.setSlot i x).draws = s.draws := rfl
@[simp] theorem State.setSlot_out (s : State) (i : SlotIndex) (x : Slot) : (s.setSlot i x).out = s.out := rfl

@[simp] theorem State.loadSlots_slots (s : State) (f : SlotFile) : (s.loadSlots f).slots = f := rfl
@[simp] theorem State.loadSlots_cursor (s : State) (f : SlotFile) : (s.loadSlots f).cursor = s.cursor := rfl
@[simp] theorem State.loadSlots_inited (s : State) (f : SlotFile) : (s.loadSlots f).inited = s.inited := rfl
@[simp] theorem State.loadSlots_prState (s : State) (f : SlotFile) : (s.loadSlots f).prState = s.prState := rfl
@[simp] theorem State.loadSlots_prPos (s : State) (f : SlotFile) : (s.loadSlots f).prPos = s.prPos := rfl
@[simp] theorem State.loadSlots_segOut (s : State) (f : SlotFile) : (s.loadSlots f).segOut = s.segOut := rfl
@[simp] theorem State.loadSlots_selOut (s : State) (f : SlotFile) : (s.loadSlots f).selOut = s.selOut := rfl
@[simp] theorem State.loadSlots_faulted (s : State) (f : SlotFile) : (s.loadSlots f).faulted = s.faulted := rfl
@[simp] theorem State.loadSlots_inbox (s : State) (f : SlotFile) : (s.loadSlots f).inbox = s.inbox := rfl
@[simp] theorem State.loadSlots_issuer (s : State) (f : SlotFile) : (s.loadSlots f).issuer = s.issuer := rfl
@[simp] theorem State.loadSlots_overlap (s : State) (f : SlotFile) : (s.loadSlots f).overlap = some s.slots.codes := rfl
@[simp] theorem State.loadSlots_draws (s : State) (f : SlotFile) : (s.loadSlots f).draws = s.draws := rfl
@[simp] theorem State.loadSlots_out (s : State) (f : SlotFile) : (s.loadSlots f).out = s.out := rfl

@[simp] theorem State.emitSel_slots (s : State) (v : BitVec 4) : (s.emitSel v).slots = s.slots := rfl
@[simp] theorem State.emitSel_cursor (s : State) (v : BitVec 4) : (s.emitSel v).cursor = s.cursor := rfl
@[simp] theorem State.emitSel_inited (s : State) (v : BitVec 4) : (s.emitSel v).inited = s.inited := rfl
@[simp] theorem State.emitSel_prState (s : State) (v : BitVec 4) : (s.emitSel v).prState = s.prState := rfl
@[simp] theorem State.emitSel_prPos (s : State) (v : BitVec 4) : (s.emitSel v).prPos = s.prPos := rfl
@[simp] theorem State.emitSel_segOut (s : State) (v : BitVec 4) : (s.emitSel v).segOut = s.segOut := rfl
@[simp] theorem State.emitSel_selOut (s : State) (v : BitVec 4) : (s.emitSel v).selOut = .level v := rfl
@[simp] theorem State.emitSel_faulted (s : State) (v : BitVec 4) : (s.emitSel v).faulted = s.faulted := rfl
@[simp] theorem State.emitSel_inbox (s : State) (v : BitVec 4) : (s.emitSel v).inbox = s.inbox := rfl
@[simp] theorem State.emitSel_issuer (s : State) (v : BitVec 4) : (s.emitSel v).issuer = s.issuer := rfl
@[simp] theorem State.emitSel_overlap (s : State) (v : BitVec 4) : (s.emitSel v).overlap = s.overlap := rfl
@[simp] theorem State.emitSel_draws (s : State) (v : BitVec 4) : (s.emitSel v).draws = s.draws := rfl
@[simp] theorem State.emitSel_out (s : State) (v : BitVec 4) :
    (s.emitSel v).out = { s.out with events := s.out.events ++ [.selWrite v] } := rfl

@[simp] theorem State.emitSeg_slots (s : State) (v : Byte) : (s.emitSeg v).slots = s.slots := rfl
@[simp] theorem State.emitSeg_cursor (s : State) (v : Byte) : (s.emitSeg v).cursor = s.cursor := rfl
@[simp] theorem State.emitSeg_inited (s : State) (v : Byte) : (s.emitSeg v).inited = s.inited := rfl
@[simp] theorem State.emitSeg_prState (s : State) (v : Byte) : (s.emitSeg v).prState = s.prState := rfl
@[simp] theorem State.emitSeg_prPos (s : State) (v : Byte) : (s.emitSeg v).prPos = s.prPos := rfl
@[simp] theorem State.emitSeg_segOut (s : State) (v : Byte) : (s.emitSeg v).segOut = .level v := rfl
@[simp] theorem State.emitSeg_selOut (s : State) (v : Byte) : (s.emitSeg v).selOut = s.selOut := rfl
@[simp] theorem State.emitSeg_faulted (s : State) (v : Byte) : (s.emitSeg v).faulted = s.faulted := rfl
@[simp] theorem State.emitSeg_inbox (s : State) (v : Byte) : (s.emitSeg v).inbox = s.inbox := rfl
@[simp] theorem State.emitSeg_issuer (s : State) (v : Byte) : (s.emitSeg v).issuer = s.issuer := rfl
@[simp] theorem State.emitSeg_overlap (s : State) (v : Byte) : (s.emitSeg v).overlap = s.overlap := rfl
@[simp] theorem State.emitSeg_draws (s : State) (v : Byte) : (s.emitSeg v).draws = s.draws := rfl
@[simp] theorem State.emitSeg_out (s : State) (v : Byte) :
    (s.emitSeg v).out = { s.out with events := s.out.events ++ [.segWrite v] } := rfl

@[simp] theorem State.setUpPorts_slots (s : State) : (s.setUpPorts).slots = s.slots := rfl
@[simp] theorem State.setUpPorts_cursor (s : State) : (s.setUpPorts).cursor = s.cursor := rfl
@[simp] theorem State.setUpPorts_inited (s : State) : (s.setUpPorts).inited = s.inited := rfl
@[simp] theorem State.setUpPorts_prState (s : State) : (s.setUpPorts).prState = s.prState := rfl
@[simp] theorem State.setUpPorts_prPos (s : State) : (s.setUpPorts).prPos = s.prPos := rfl
@[simp] theorem State.setUpPorts_segOut (s : State) : (s.setUpPorts).segOut = s.segOut := rfl
@[simp] theorem State.setUpPorts_selOut (s : State) : (s.setUpPorts).selOut = s.selOut := rfl
@[simp] theorem State.setUpPorts_faulted (s : State) : (s.setUpPorts).faulted = s.faulted := rfl
@[simp] theorem State.setUpPorts_inbox (s : State) : (s.setUpPorts).inbox = s.inbox := rfl
@[simp] theorem State.setUpPorts_issuer (s : State) : (s.setUpPorts).issuer = s.issuer := rfl
@[simp] theorem State.setUpPorts_overlap (s : State) : (s.setUpPorts).overlap = s.overlap := rfl
@[simp] theorem State.setUpPorts_draws (s : State) : (s.setUpPorts).draws = s.draws := rfl
@[simp] theorem State.setUpPorts_out (s : State) :
    (s.setUpPorts).out = { s.out with segSetup := [.init, .portModeOutput], selSetup := [.init, .portModeOutput] } := rfl

@[simp] theorem State.drawPortLevels_slots (s : State) : (s.drawPortLevels).slots = s.slots := rfl
@[simp] theorem State.drawPortLevels_cursor (s : State) : (s.drawPortLevels).cursor = s.cursor := rfl
@[simp] theorem State.drawPortLevels_inited (s : State) : (s.drawPortLevels).inited = s.inited := rfl
@[simp] theorem State.drawPortLevels_prState (s : State) : (s.drawPortLevels).prState = s.prState := rfl
@[simp] theorem State.drawPortLevels_prPos (s : State) : (s.drawPortLevels).prPos = s.prPos := rfl
@[simp] theorem State.drawPortLevels_segOut (s : State) : (s.drawPortLevels).segOut = .level (Config.drawSeg s.draws) := rfl
@[simp] theorem State.drawPortLevels_selOut (s : State) : (s.drawPortLevels).selOut = .level (Config.drawSel s.draws) := rfl
@[simp] theorem State.drawPortLevels_faulted (s : State) : (s.drawPortLevels).faulted = s.faulted := rfl
@[simp] theorem State.drawPortLevels_inbox (s : State) : (s.drawPortLevels).inbox = s.inbox := rfl
@[simp] theorem State.drawPortLevels_issuer (s : State) : (s.drawPortLevels).issuer = s.issuer := rfl
@[simp] theorem State.drawPortLevels_overlap (s : State) : (s.drawPortLevels).overlap = s.overlap := rfl
@[simp] theorem State.drawPortLevels_draws (s : State) : (s.drawPortLevels).draws = s.draws + 1 := rfl
@[simp] theorem State.drawPortLevels_out (s : State) : (s.drawPortLevels).out = s.out := rfl

@[simp] theorem State.present_slots (s : State) (q : Request) (rest : List Request) : (s.present q rest).slots = s.slots := rfl
@[simp] theorem State.present_cursor (s : State) (q : Request) (rest : List Request) : (s.present q rest).cursor = s.cursor := rfl
@[simp] theorem State.present_inited (s : State) (q : Request) (rest : List Request) : (s.present q rest).inited = s.inited := rfl
@[simp] theorem State.present_prState (s : State) (q : Request) (rest : List Request) :
    (s.present q rest).prState = s.prState := rfl
@[simp] theorem State.present_prPos (s : State) (q : Request) (rest : List Request) : (s.present q rest).prPos = s.prPos := rfl
@[simp] theorem State.present_segOut (s : State) (q : Request) (rest : List Request) : (s.present q rest).segOut = s.segOut := rfl
@[simp] theorem State.present_selOut (s : State) (q : Request) (rest : List Request) : (s.present q rest).selOut = s.selOut := rfl
@[simp] theorem State.present_faulted (s : State) (q : Request) (rest : List Request) :
    (s.present q rest).faulted = s.faulted := rfl
@[simp] theorem State.present_inbox (s : State) (q : Request) (rest : List Request) : (s.present q rest).inbox = rest := rfl
@[simp] theorem State.present_issuer (s : State) (q : Request) (rest : List Request) :
    (s.present q rest).issuer = some q.agent := rfl
@[simp] theorem State.present_draws (s : State) (q : Request) (rest : List Request) : (s.present q rest).draws = s.draws := rfl
@[simp] theorem State.present_out (s : State) (q : Request) (rest : List Request) : (s.present q rest).out = s.out := rfl

@[simp] theorem State.presentNext_slots (s : State) (w : Word) : (s.presentNext w).slots = s.slots := rfl
@[simp] theorem State.presentNext_cursor (s : State) (w : Word) : (s.presentNext w).cursor = s.cursor := rfl
@[simp] theorem State.presentNext_inited (s : State) (w : Word) : (s.presentNext w).inited = s.inited := rfl
@[simp] theorem State.presentNext_prState (s : State) (w : Word) : (s.presentNext w).prState = s.prState := rfl
@[simp] theorem State.presentNext_prPos (s : State) (w : Word) : (s.presentNext w).prPos = s.prPos := rfl
@[simp] theorem State.presentNext_segOut (s : State) (w : Word) : (s.presentNext w).segOut = s.segOut := rfl
@[simp] theorem State.presentNext_selOut (s : State) (w : Word) : (s.presentNext w).selOut = s.selOut := rfl
@[simp] theorem State.presentNext_faulted (s : State) (w : Word) : (s.presentNext w).faulted = s.faulted := rfl
@[simp] theorem State.presentNext_inbox (s : State) (w : Word) : (s.presentNext w).inbox = .host w :: s.inbox := rfl
@[simp] theorem State.presentNext_issuer (s : State) (w : Word) : (s.presentNext w).issuer = s.issuer := rfl
@[simp] theorem State.presentNext_overlap (s : State) (w : Word) : (s.presentNext w).overlap = s.overlap := rfl
@[simp] theorem State.presentNext_draws (s : State) (w : Word) : (s.presentNext w).draws = s.draws := rfl
@[simp] theorem State.presentNext_out (s : State) (w : Word) : (s.presentNext w).out = s.out := rfl

/-- The overlap window stays open only for a tick REFRESH issued during the multi-slot command before it (R52). -/
theorem State.present_overlap (s : State) (q : Request) (rest : List Request) :
    (s.present q rest).overlap = if q = .tick true then s.overlap else none := by
  cases q with
  | host w => rfl
  | tick during => cases during <;> rfl

end Sys2Proof.Machine
end

