-- ==== Sys2Proof/Laws/Ops.lean ====
section
/-! SUPPORT. One spec lemma per shared operation: what it can do, said once. -/

namespace Sys2Proof

/-- A statement about every slot number is four statements. -/
theorem forall_slot {p : SlotIndex → Prop} : (∀ i, p i) ↔ p 0#2 ∧ p 1#2 ∧ p 2#2 ∧ p 3#2 := by
  constructor
  · intro h
    exact ⟨h _, h _, h _, h _⟩
  · rintro ⟨h0, h1, h2, h3⟩ i
    have : i = 0#2 ∨ i = 1#2 ∨ i = 2#2 ∨ i = 3#2 := by revert i; decide
    rcases this with rfl | rfl | rfl | rfl <;> assumption

@[simp] theorem Four.get_zero {α : Type} (f : Four α) : f.get 0#2 = f.at0 := rfl
@[simp] theorem Four.get_one {α : Type} (f : Four α) : f.get 1#2 = f.at1 := rfl
@[simp] theorem Four.get_two {α : Type} (f : Four α) : f.get 2#2 = f.at2 := rfl
@[simp] theorem Four.get_three {α : Type} (f : Four α) : f.get 3#2 = f.at3 := rfl

/-- Two rows with the same entries are equal. -/
theorem Four.ext_get {α : Type} {f g : Four α} (h : ∀ i, f.get i = g.get i) : f = g := by
  obtain ⟨h0, h1, h2, h3⟩ := forall_slot.mp h
  obtain ⟨a0, a1, a2, a3⟩ := f
  obtain ⟨b0, b1, b2, b3⟩ := g
  exact (Four.mk.injEq ..).mpr ⟨h0, h1, h2, h3⟩

theorem Four.get_ofFn {α : Type} (g : SlotIndex → α) (i : SlotIndex) : (Four.ofFn g).get i = g i := by
  revert i
  exact forall_slot.mpr ⟨rfl, rfl, rfl, rfl⟩

theorem Four.get_map {α β : Type} (g : α → β) (f : Four α) (i : SlotIndex) : (f.map g).get i = g (f.get i) := by
  revert i
  exact forall_slot.mpr ⟨rfl, rfl, rfl, rfl⟩

/-- Reading back what was written. -/
theorem Four.get_set_same {α : Type} (f : Four α) (i : SlotIndex) (x : α) : (f.set i x).get i = x := by
  revert i
  exact forall_slot.mpr ⟨rfl, rfl, rfl, rfl⟩

/-- A write leaves every other entry alone. -/
theorem Four.get_set_ne {α : Type} (f : Four α) (x : α) : ∀ i j : SlotIndex, j ≠ i → (f.set i x).get j = f.get j := by
  refine forall_slot.mpr ⟨?_, ?_, ?_, ?_⟩ <;> refine forall_slot.mpr ⟨?_, ?_, ?_, ?_⟩ <;> intro h <;>
    first | rfl | exact absurd rfl h

namespace Machine

@[simp] theorem get_blankSlots (i : SlotIndex) : blankSlots.get i = blankSlot := Four.get_ofFn _ i

theorem SlotFile.get_codes (f : SlotFile) (i : SlotIndex) : (SlotFile.codes f).get i = (f.get i).code := Four.get_map _ _ i

/-- A bit of the packed slot view, field by field (R112). -/
theorem getLsbD_packSlot (d : Bool) (x : Slot) (j : Nat) :
    (packSlot d x).getLsbD j =
      if j < 8 then x.code.getLsbD j
      else if j < 12 then x.value.getLsbD (j - 8)
      else if j < 20 then x.ch.getLsbD (j - 12)
      else (BitVec.ofBool d).getLsbD (j - 20) := by
  have h : (packSlot d x).getLsbD j = (BitVec.ofBool d ++ (x.ch ++ (x.value ++ x.code))).getLsbD j := rfl
  rw [h, BitVec.getLsbD_append, BitVec.getLsbD_append, BitVec.getLsbD_append]
  by_cases h8 : j < 8
  · rw [if_pos (by omega), if_pos (by omega), if_pos h8, if_pos h8]
  · by_cases h12 : j < 12
    · rw [if_pos (by omega), if_pos (by omega), if_neg h8, if_neg h8, if_pos h12]
    · by_cases h20 : j < 20
      · rw [if_pos (by omega), if_neg (by omega), if_neg h8, if_neg h12, if_pos h20]
      · rw [if_neg (by omega), if_neg h8, if_neg h12, if_neg h20]

/-- A command's body runs, its outputs empty at the start, when the block holds no mark. -/
theorem whenRunning_running {s : State} (h : s.faulted = none) (body : State → Host.Outcome State Fault Refusal) :
    whenRunning s body = body { s with out := Output.silent s.issuer } := by
  simp [whenRunning, h]

/-- In a faulted block no body runs. -/
theorem whenRunning_faulted {s : State} {reason : FaultReason} (h : s.faulted = some reason)
    (body : State → Host.Outcome State Fault Refusal) : whenRunning s body = .fault (.blockFaulted reason) := by
  simp [whenRunning, h]

/-- Whatever is true of a command's answer in a running block and of the stop in a faulted one is true of its answer. -/
theorem whenRunning_cases (s : State) (body : State → Host.Outcome State Fault Refusal) :
    (s.faulted = none ∧ whenRunning s body = body { s with out := Output.silent s.issuer }) ∨
    ∃ reason, s.faulted = some reason ∧ whenRunning s body = .fault (.blockFaulted reason) := by
  rcases h : s.faulted with _ | reason
  · exact .inl ⟨rfl, h ▸ whenRunning_running h body⟩
  · exact .inr ⟨reason, rfl, whenRunning_faulted h body⟩

theorem whenPrintClosed_closed {s : State} (i : Instr) (h : s.faulted = none) (hp : s.prState = .idle)
    (body : State → Host.Outcome State Fault Refusal) :
    whenPrintClosed i s body = body { s with out := Output.silent s.issuer } := by
  simp [whenPrintClosed, whenRunning, h, hp]

theorem whenPrintClosed_open {s : State} (i : Instr) (h : s.faulted = none) (hp : s.prState ≠ .idle)
    (body : State → Host.Outcome State Fault Refusal) :
    whenPrintClosed i s body = .next { s with faulted := some (.printOpen i), out := Output.silent s.issuer } := by
  simp [whenPrintClosed, whenRunning, h, hp, raise]

theorem whenPrintOpen_open {s : State} (i : Instr) (h : s.faulted = none) (hp : s.prState ≠ .idle)
    (body : State → Host.Outcome State Fault Refusal) :
    whenPrintOpen i s body = body { s with out := Output.silent s.issuer } := by
  simp [whenPrintOpen, whenRunning, h, hp]

theorem whenPrintOpen_closed {s : State} (i : Instr) (h : s.faulted = none) (hp : s.prState = .idle)
    (body : State → Host.Outcome State Fault Refusal) :
    whenPrintOpen i s body = .next { s with faulted := some (.printNotOpen i), out := Output.silent s.issuer } := by
  simp [whenPrintOpen, whenRunning, h, hp, raise]

theorem whenInited_inited {s : State} (h : s.faulted = none) (hi : s.inited = true)
    (body : State → Host.Outcome State Fault Refusal) : whenInited s body = body { s with out := Output.silent s.issuer } := by
  simp [whenInited, whenRunning, h, hi]

theorem whenInited_not {s : State} (h : s.faulted = none) (hi : s.inited = false)
    (body : State → Host.Outcome State Fault Refusal) :
    whenInited s body = .next { s with faulted := some .notInitialised, out := Output.silent s.issuer } := by
  simp [whenInited, whenRunning, h, hi, raise]

/-- What a REFRESH may read, and what the reading changes: at most the draw counter. -/
theorem State.readCode_cases (s : State) (k : SlotIndex) :
    (s.overlap = none ∧ s.readCode k = ((s.slots.get k).code, s)) ∨
    ∃ old, s.overlap = some old ∧ (s.readCode k).2 = { s with draws := s.draws + 1 } ∧
      ((s.readCode k).1 = old.get k ∨ (s.readCode k).1 = (s.slots.get k).code) := by
  cases h : s.overlap with
  | none => exact .inl ⟨rfl, by simp [State.readCode, h]⟩
  | some old =>
    refine .inr ⟨old, rfl, by simp [State.readCode, h], ?_⟩
    cases hd : Config.drawOld s.draws
    · exact .inr (by simp [State.readCode, h, hd])
    · exact .inl (by simp [State.readCode, h, hd])

/-- With no command presented there is none to take. -/
theorem State.nextCommand_nil {s : State} (h : s.inbox = []) : s.nextCommand = none := by
  simp [State.nextCommand, h]

/-- The head of the order is taken, in the state in which it is presented. -/
theorem State.nextCommand_cons {s : State} {q : Request} {rest : List Request} (h : s.inbox = q :: rest) :
    s.nextCommand = some (q.word, s.present q rest) := by
  simp [State.nextCommand, h]

/-- A port event moves its own port and leaves the other at its level. -/
theorem portLevels_sel_seg (sel : PortLevel 4) (seg : PortLevel 8) (v : BitVec 4) (c : Byte) :
    portLevels sel seg [.selWrite v, .segWrite c] = [(.level v, seg), (.level v, .level c)] := rfl

end Machine

end Sys2Proof
end

