-- ==== Sys2Proof/Laws/Rom.lean ====
section
/-! SUPPORT. Facts of the ROM functions that hold for every table: bit 7, and the characters a print may write. -/

namespace Sys2Proof.Machine

/-- No table entry has the decimal point: R10's constraint on `SEG_TABLE`. -/
@[simp] theorem segTable_bit7 (n : Nibble) : (Config.segTable n).getLsbD 7 = false := by
  simp [Config.segTable]

@[simp] theorem segTable_getElem7 (n : Nibble) : (Config.segTable n)[7] = false := by
  simp [Config.segTable]

/-- The low nibble of a widened nibble is the nibble. -/
@[simp] theorem lowNibble_setWidth (n : Nibble) : lowNibble (n.setWidth 16) = n := by
  revert n
  decide

/-- `encodeNibble` of a widened nibble is its table entry. -/
@[simp] theorem encodeNibble_setWidth (n : Nibble) : encodeNibble (n.setWidth 16) = Config.segTable n := by
  simp [encodeNibble]

/-- A hex digit's value is the digit, whatever `ROM_LOWERCASE` is. -/
theorem charToValue_hexchar (n : Nibble) : charToValue (hexchar n) = n := by
  have h : ∀ n : Nibble, (isDigit (hexchar n) = true ∧ (hexchar n - 0x30#8).setWidth 4 = n) ∨
      (isDigit (hexchar n) = false ∧ isUpperHex (hexchar n) = true ∧ (hexchar n - 0x37#8).setWidth 4 = n) := by decide
  rcases h n with ⟨h1, h2⟩ | ⟨h1, h2, h3⟩
  · simp [charToValue, h1, h2]
  · simp [charToValue, h1, h2, h3]

/-- A hex digit is no dash, blank or point, and is valid text. -/
theorem hexchar_is_digit : ∀ n : Nibble,
    hexchar n ≠ charDash ∧ hexchar n ≠ charSpace ∧ hexchar n ≠ charDot ∧ isValidChar (hexchar n) = true := by decide

/-- A hex digit's pattern is its table entry. -/
theorem charToCode_hexchar (n : Nibble) : charToCode (hexchar n) = Config.segTable n := by
  obtain ⟨h1, h2, -, -⟩ := hexchar_is_digit n
  simp [charToCode, h1, h2, charToValue_hexchar]

/-- A character's pattern is the dash, the blank or a table entry. -/
theorem charToCode_cases (c : Byte) :
    charToCode c = 0x40#8 ∨ charToCode c = 0x00#8 ∨ ∃ n, charToCode c = Config.segTable n := by
  unfold charToCode
  split
  · exact .inl rfl
  · split
    · exact .inr (.inl rfl)
    · exact .inr (.inr ⟨_, encodeNibble_setWidth _⟩)

end Sys2Proof.Machine
end

