-- ==== Sys2Proof/Laws/Print.lean ====
section
/-! SUPPORT. What one character of the print walk can do, case by case (R102 to R107). -/

namespace Sys2Proof.Machine

/-- Outside WALK a character does nothing. -/
theorem walkStep_ended (c : Byte) {s : State} (h : s.prState ≠ .walk) : walkStep c s = s := by
  unfold walkStep
  split
  · contradiction
  · rfl
  · rfl
  · rfl

/-- An invalid character aborts the walk. -/
theorem walkStep_invalid {c : Byte} {s : State} (h : s.prState = .walk) (hv : isValidChar (upper c) = false) :
    walkStep c s = { s with prState := .aborted } := by
  simp only [walkStep, h, hv, if_true]

/-- A '.' sets a decimal point. -/
theorem walkStep_dot {c : Byte} {s : State} (h : s.prState = .walk) (hd : upper c = charDot) : walkStep c s = dpStep s := by
  have hv : isValidChar charDot ≠ false := by decide
  simp only [walkStep, h, hd, if_neg hv, if_true]

/-- Any other valid character is written. -/
theorem walkStep_digit {c : Byte} {s : State} (h : s.prState = .walk) (hv : isValidChar (upper c) = true)
    (hd : upper c ≠ charDot) : walkStep c s = writeStep (upper c) s := by
  have hv' : isValidChar (upper c) ≠ false := by simp [hv]
  simp only [walkStep, h, if_neg hv', if_neg hd]

/-- What one character of a walk can do. -/
theorem walkStep_cases (c : Byte) (s : State) :
    walkStep c s = s ∨
    (s.prState = .walk ∧ isValidChar (upper c) = false ∧ walkStep c s = { s with prState := .aborted }) ∨
    (s.prState = .walk ∧ upper c = charDot ∧ walkStep c s = dpStep s) ∨
    (s.prState = .walk ∧ isValidChar (upper c) = true ∧ upper c ≠ charDot ∧ walkStep c s = writeStep (upper c) s) := by
  by_cases h : s.prState = .walk
  · cases hv : isValidChar (upper c)
    · exact .inr (.inl ⟨h, rfl, walkStep_invalid h hv⟩)
    · by_cases hd : upper c = charDot
      · exact .inr (.inr (.inl ⟨h, hd, walkStep_dot h hd⟩))
      · exact .inr (.inr (.inr ⟨h, rfl, hd, walkStep_digit h hv hd⟩))
  · exact .inl (walkStep_ended c h)

/-- Writing slot 0 ends the walk. -/
theorem writeStep_last (u : Byte) {s : State} (h : s.prPos = 0#2) :
    writeStep u s =
      { s with
        slots := s.slots.set 0#2 { code := (s.slots.get 0#2).code ||| charToCode u, value := charToValue u, ch := u }
        prState := .stopped } := by
  simp [writeStep, h, State.setSlot]

/-- Writing another slot moves the walk one slot leftward. -/
theorem writeStep_left (u : Byte) {s : State} (h : s.prPos ≠ 0#2) :
    writeStep u s =
      { s with
        slots :=
          s.slots.set s.prPos { code := (s.slots.get s.prPos).code ||| charToCode u, value := charToValue u, ch := u }
        prPos := s.prPos - 1#2 } := by
  simp [writeStep, h, State.setSlot]

/-- A character of the walk changes no field but the slots, the print state and the walk position. -/
theorem walkStep_frame (c : Byte) (s : State) :
    walkStep c s =
      { s with slots := (walkStep c s).slots, prState := (walkStep c s).prState, prPos := (walkStep c s).prPos } := by
  rcases walkStep_cases c s with h | ⟨-, -, h⟩ | ⟨-, -, h⟩ | ⟨-, -, -, h⟩ <;> rw [h]
  · rfl
  · unfold writeStep
    split <;> rfl

/-- Outside an open walk, and for an invalid character, no slot is written. -/
theorem walkStep_slots_same {c : Byte} {s : State} (h : s.prState ≠ .walk ∨ isValidChar (upper c) = false) :
    (walkStep c s).slots = s.slots := by
  by_cases hw : s.prState = .walk
  · rw [walkStep_invalid hw (h.resolve_left (not_not_intro hw))]
  · rw [walkStep_ended c hw]

/-- A '.' writes no slot but the one after the walk's. -/
theorem walkStep_slots_dot {c : Byte} {s : State} (h : s.prState = .walk) (hd : upper c = charDot) {j : SlotIndex}
    (hj : j ≠ s.prPos + 1#2) : (walkStep c s).slots.get j = s.slots.get j := by
  rw [walkStep_dot h hd]
  exact Four.get_set_ne _ _ _ _ hj

/-- Another valid character writes no slot but the walk's. -/
theorem walkStep_slots_digit {c : Byte} {s : State} (h : s.prState = .walk) (hv : isValidChar (upper c) = true)
    (hd : upper c ≠ charDot) {j : SlotIndex} (hj : j ≠ s.prPos) : (walkStep c s).slots.get j = s.slots.get j := by
  rw [walkStep_digit h hv hd]
  unfold writeStep
  split <;> exact Four.get_set_ne _ _ _ _ hj

/-- The only normalised '.' is '.' itself. -/
theorem upper_eq_dot : ∀ c : Byte, upper c = charDot ↔ c = charDot := by decide

end Sys2Proof.Machine
end

