-- ==== Sys2Proof/Laws/Refresh.lean ====
section
/-! SUPPORT. What a REFRESH does, in terms of the code it reads. -/

namespace Sys2Proof.Machine

/-- REFRESH after INIT: both port writes of the code read, then the cursor's advance (R113). -/
theorem execRefresh_inited {s : State} (h : s.faulted = none) (hi : s.inited = true) :
    execRefresh s =
      .next { s with
        selOut := .level (selectBit s.cursor)
        segOut := .level (s.readCode s.cursor).1
        cursor := s.cursor + 1#2
        draws := (s.readCode s.cursor).2.draws
        out := { Output.silent s.issuer with
          response := some .none
          events := [.selWrite (selectBit s.cursor), .segWrite (s.readCode s.cursor).1] } } := by
  rw [execRefresh, whenInited_inited h hi]
  obtain ⟨slots, cursor, inited, prState, prPos, segOut, selOut, faulted, inbox, issuer, overlap, draws, out⟩ := s
  cases overlap <;> rfl

/-- With no multi-slot command in progress the code read is the slot's. -/
theorem State.readCode_quiet {s : State} (h : s.overlap = none) (k : SlotIndex) :
    s.readCode k = ((s.slots.get k).code, s) := by
  simp [State.readCode, h]

/-- The select value has exactly the bit of its slot (R115). -/
theorem selectBit_bits : ∀ (k : SlotIndex) (j : Fin 4), (selectBit k).getLsbD (3 - j.val) = decide (j.val = k.toNat) := by
  decide

end Sys2Proof.Machine
end

