-- ==== Sys2Proof/Laws/Step.lean ====
section
/-! SUPPORT. What a step can do, said once. -/

namespace Sys2Proof.Machine

/-- The step of a block that holds no mark and has a command presented: the decoder's verdict on the word, run or marked. -/
theorem step_presented {s : State} {q : Request} {rest : List Request} (h : s.faulted = none) (hin : s.inbox = q :: rest) :
    step s =
      match decode q.word with
      | .command i => exec i (s.present q rest)
      | .refuse reason => refuseWord reason q.word (s.present q rest) := by
  cases hd : decode q.word <;> simp only [step, h, State.nextCommand_cons hin, hd]

/-- What a step can do: nothing while no command is presented, a refusal's mark, or the meaning of one command. -/
theorem step_cases {s t : State} (h : step s = .next t) :
    s.faulted = none ∧
    ((s.inbox = [] ∧ t = s) ∨
      ∃ q rest, s.inbox = q :: rest ∧
        ((∃ i, decode q.word = .command i ∧ exec i (s.present q rest) = .next t) ∨
          ∃ reason, decode q.word = .refuse reason ∧ refuseWord reason q.word (s.present q rest) = .next t)) := by
  rcases hf : s.faulted with _ | r
  · refine ⟨rfl, ?_⟩
    rcases hin : s.inbox with _ | ⟨q, rest⟩
    · simp only [step, hf, State.nextCommand_nil hin] at h
      cases h
      exact .inl ⟨rfl, rfl⟩
    · rw [step_presented hf hin] at h
      refine .inr ⟨q, rest, rfl, ?_⟩
      cases hd : decode q.word with
      | command i => exact .inl ⟨i, rfl, by simpa [hd] using h⟩
      | refuse reason => exact .inr ⟨reason, rfl, by simpa [hd] using h⟩
  · simp [step, hf] at h

end Sys2Proof.Machine
end

