-- ==== Sys2Proof/Laws/Exec.lean ====
section
/-! SUPPORT. What a command can do, said once: it marks the block and changes nothing else, or it has its own effect. Every invariant,
frame and noninterference fact of the block follows from this by cases. -/

namespace Sys2Proof.Machine

/-- What a command that responds `r` and emits nothing puts out. -/
def said (s : State) (r : Response) : Output := { Output.silent s.issuer with response := some r }

/-- The next state of a command that marks the block (R125). -/
def MarksIt (i : Instr) (s t : State) : Prop :=
  ∃ reason, t = { s with faulted := some reason, out := Output.silent s.issuer } ∧
    match i with
    | .init => reason = .printOpen i ∧ s.prState ≠ .idle
    | .clear => reason = .printOpen i ∧ s.prState ≠ .idle
    | .write _ => reason = .printOpen i ∧ s.prState ≠ .idle
    | .printBegin => reason = .printOpen i ∧ s.prState ≠ .idle
    | .printChar _ => reason = .printNotOpen i ∧ s.prState = .idle
    | .printEnd => reason = .printNotOpen i ∧ s.prState = .idle
    | .printRaw => reason = .printOpen i ∧ s.prState ≠ .idle
    | .refresh => reason = .notInitialised ∧ s.inited = false
    | .encNibble _ => False
    | .charValue _ => False
    | .charCode _ => False
    | .charValid _ => False
    | .readSlot _ => False

/-- The next state of a command that has its own effect. -/
def HasEffect (i : Instr) (s t : State) : Prop :=
  match i with
  | .init => s.prState = .idle ∧
      ((s.inited = true ∧ t = { s with
          out := { said s .none with segSetup := [.init, .portModeOutput], selSetup := [.init, .portModeOutput] } }) ∨
        (s.inited = false ∧ t = { s with
          inited := true
          segOut := .level (Config.drawSeg s.draws)
          selOut := .level (Config.drawSel s.draws)
          draws := s.draws + 1
          out := { said s .none with segSetup := [.init, .portModeOutput], selSetup := [.init, .portModeOutput] } }))
  | .clear => s.prState = .idle ∧
      t = { s with slots := blankSlots, overlap := some s.slots.codes, out := said s .none }
  | .write v => s.prState = .idle ∧
      t = { s with
        slots := Four.ofFn fun i => hexSlot (writeNibble v i), overlap := some s.slots.codes, out := said s .none }
  | .printBegin => s.prState = .idle ∧
      t = { s with
        slots := blankSlots, overlap := some s.slots.codes, prPos := 3#2, prState := .walk, out := said s .none }
  | .printChar c => s.prState ≠ .idle ∧ t = { walkStep c s with out := said s .none }
  | .printEnd => s.prState ≠ .idle ∧ t = { s with prState := .idle, out := said s (.bool s.prState.success) }
  | .printRaw => s.prState = .idle ∧ t = { s with out := said s (.bool false) }
  | .refresh => s.inited = true ∧
      t = { s with
        selOut := .level (selectBit s.cursor)
        segOut := .level (s.readCode s.cursor).1
        cursor := s.cursor + 1#2
        draws := (s.readCode s.cursor).2.draws
        out := { said s .none with
          events := [.selWrite (selectBit s.cursor), .segWrite (s.readCode s.cursor).1] } }
  | .encNibble x => t = { s with out := said s (.bits8 (encodeNibble x)) }
  | .charValue c => t = { s with out := said s (.bits4 (charToValue c)) }
  | .charCode c => t = { s with out := said s (.bits8 (charToCode c)) }
  | .charValid c => t = { s with out := said s (.bool (isValidChar (upper c))) }
  | .readSlot idx => t = { s with
      out := said s (.slotView (packSlot (s.slots.get idx).hasDecimal (s.slots.get idx))) }

/-- The walk does not look at the outputs. -/
theorem walkStep_out (c : Byte) (s : State) (o : Output) :
    walkStep c { s with out := o } = { walkStep c s with out := o } := by
  by_cases hp : s.prState = .walk
  · cases hv : isValidChar (upper c)
    · rw [walkStep_invalid hp hv, walkStep_invalid (s := { s with out := o }) hp hv]
    · by_cases hd : upper c = charDot
      · rw [walkStep_dot hp hd, walkStep_dot (s := { s with out := o }) hp hd]
        rfl
      · rw [walkStep_digit hp hv hd, walkStep_digit (s := { s with out := o }) hp hv hd]
        by_cases hz : s.prPos = 0#2
        · rw [writeStep_last _ hz, writeStep_last _ (s := { s with out := o }) hz]
        · rw [writeStep_left _ hz, writeStep_left _ (s := { s with out := o }) hz]
  · rw [walkStep_ended c hp, walkStep_ended c (s := { s with out := o }) hp]

/-- No command runs in a marked block (R39). -/
theorem exec_faulted {s : State} {reason : FaultReason} (h : s.faulted = some reason) (i : Instr) :
    exec i s = .fault (.blockFaulted reason) := by
  cases i <;>
    simp only [exec, execInit, execClear, execWrite, execPrintBegin, execPrintChar, execPrintEnd, execPrintRaw, execRefresh,
      execEncNibble, execCharValue, execCharCode, execCharValid, execReadSlot, whenPrintClosed, whenPrintOpen, whenInited] <;>
    exact whenRunning_faulted h _

/-- A command that needs no print open, in a block that holds no mark. -/
theorem whenPrintClosed_cases (i : Instr) {s : State} (h : s.faulted = none) (body : State → Host.Outcome State Fault Refusal) :
    (s.prState = .idle ∧ whenPrintClosed i s body = body { s with out := Output.silent s.issuer }) ∨
    (s.prState ≠ .idle ∧
      whenPrintClosed i s body = .next { s with faulted := some (.printOpen i), out := Output.silent s.issuer }) := by
  by_cases hp : s.prState = .idle
  · exact .inl ⟨hp, whenPrintClosed_closed i h hp body⟩
  · exact .inr ⟨hp, whenPrintClosed_open i h hp body⟩

/-- A command that needs a print open, in a block that holds no mark. -/
theorem whenPrintOpen_cases (i : Instr) {s : State} (h : s.faulted = none) (body : State → Host.Outcome State Fault Refusal) :
    (s.prState ≠ .idle ∧ whenPrintOpen i s body = body { s with out := Output.silent s.issuer }) ∨
    (s.prState = .idle ∧
      whenPrintOpen i s body = .next { s with faulted := some (.printNotOpen i), out := Output.silent s.issuer }) := by
  by_cases hp : s.prState = .idle
  · exact .inr ⟨hp, whenPrintOpen_closed i h hp body⟩
  · exact .inl ⟨hp, whenPrintOpen_open i h hp body⟩

/-- What a command does in a block that holds no mark: it marks the block, or it has its effect. -/
theorem exec_effect {s : State} (h : s.faulted = none) (i : Instr) : ∃ t, exec i s = .next t ∧ (MarksIt i s t ∨ HasEffect i s t) := by
  cases i with
  | init =>
    rcases whenPrintClosed_cases .init h _ with ⟨hp, e⟩ | ⟨hp, e⟩
    · cases hi : s.inited
      · exact ⟨_, by rw [exec, execInit, e]; simp [hi]; rfl, .inr ⟨hp, .inr ⟨hi, rfl⟩⟩⟩
      · exact ⟨_, by rw [exec, execInit, e]; simp [hi]; rfl, .inr ⟨hp, .inl ⟨hi, rfl⟩⟩⟩
    · exact ⟨_, by rw [exec, execInit, e], .inl ⟨_, rfl, rfl, hp⟩⟩
  | clear =>
    rcases whenPrintClosed_cases .clear h _ with ⟨hp, e⟩ | ⟨hp, e⟩
    · exact ⟨_, by rw [exec, execClear, e]; rfl, .inr ⟨hp, rfl⟩⟩
    · exact ⟨_, by rw [exec, execClear, e], .inl ⟨_, rfl, rfl, hp⟩⟩
  | write v =>
    rcases whenPrintClosed_cases (.write v) h _ with ⟨hp, e⟩ | ⟨hp, e⟩
    · exact ⟨_, by rw [exec, execWrite, e]; rfl, .inr ⟨hp, rfl⟩⟩
    · exact ⟨_, by rw [exec, execWrite, e], .inl ⟨_, rfl, rfl, hp⟩⟩
  | printBegin =>
    rcases whenPrintClosed_cases .printBegin h _ with ⟨hp, e⟩ | ⟨hp, e⟩
    · exact ⟨_, by rw [exec, execPrintBegin, e]; rfl, .inr ⟨hp, rfl⟩⟩
    · exact ⟨_, by rw [exec, execPrintBegin, e], .inl ⟨_, rfl, rfl, hp⟩⟩
  | printChar c =>
    rcases whenPrintOpen_cases (.printChar c) h _ with ⟨hp, e⟩ | ⟨hp, e⟩
    · exact ⟨_, by rw [exec, execPrintChar, e, walkStep_out]; rfl, .inr ⟨hp, rfl⟩⟩
    · exact ⟨_, by rw [exec, execPrintChar, e], .inl ⟨_, rfl, rfl, hp⟩⟩
  | printEnd =>
    rcases whenPrintOpen_cases .printEnd h _ with ⟨hp, e⟩ | ⟨hp, e⟩
    · exact ⟨_, by rw [exec, execPrintEnd, e]; rfl, .inr ⟨hp, rfl⟩⟩
    · exact ⟨_, by rw [exec, execPrintEnd, e], .inl ⟨_, rfl, rfl, hp⟩⟩
  | printRaw =>
    rcases whenPrintClosed_cases .printRaw h _ with ⟨hp, e⟩ | ⟨hp, e⟩
    · exact ⟨_, by rw [exec, execPrintRaw, e]; rfl, .inr ⟨hp, rfl⟩⟩
    · exact ⟨_, by rw [exec, execPrintRaw, e], .inl ⟨_, rfl, rfl, hp⟩⟩
  | refresh =>
    cases hi : s.inited
    · exact ⟨_, by rw [exec, execRefresh, whenInited_not h hi], .inl ⟨_, rfl, rfl, hi⟩⟩
    · exact ⟨_, execRefresh_inited h hi, .inr ⟨hi, rfl⟩⟩
  | encNibble x => exact ⟨_, whenRunning_running h _, .inr rfl⟩
  | charValue c => exact ⟨_, whenRunning_running h _, .inr rfl⟩
  | charCode c => exact ⟨_, whenRunning_running h _, .inr rfl⟩
  | charValid c => exact ⟨_, whenRunning_running h _, .inr rfl⟩
  | readSlot idx => exact ⟨_, by rw [exec, execReadSlot, whenRunning_running h]; rfl, .inr rfl⟩

/-- What a command can do: nothing in a marked block; otherwise it marks the block, or it has its effect. -/
theorem exec_cases {i : Instr} {s t : State} (h : exec i s = .next t) :
    s.faulted = none ∧ (MarksIt i s t ∨ HasEffect i s t) := by
  rcases hf : s.faulted with _ | reason
  · obtain ⟨u, hu, hc⟩ := exec_effect hf i
    rw [h] at hu
    cases hu
    exact ⟨rfl, hc⟩
  · rw [exec_faulted hf] at h
    cases h

end Sys2Proof.Machine
end

