-- ==== Sys2Proof/Laws/PerInstr.lean ====
section
/-! SUPPORT. The families of LAWS.json, one lemma per constructor of `Instr`. WellFormed: the fields of every command spell a command,
so no constructor has an ill-formed operand. -/

namespace Sys2Proof.Laws.WellFormed

/-- A command's fields spell a command. -/
def Statement (i : Instr) : Prop := i.wellFormed = true

/-- From the two parts of the check: the opcode is one of the map's, and the operand fits its format. -/
theorem of_parts (i : Instr) : Statement i := by
  simp [Statement, Instr.wellFormed, Fields.wellFormed, Instr.fields]

theorem init : Statement .init := of_parts _
theorem clear : Statement .clear := of_parts _
theorem write (v : BitVec 16) : Statement (.write v) := of_parts _
theorem printBegin : Statement .printBegin := of_parts _
theorem printChar (c : Byte) : Statement (.printChar c) := of_parts _
theorem printEnd : Statement .printEnd := of_parts _
theorem printRaw : Statement .printRaw := of_parts _
theorem refresh : Statement .refresh := of_parts _
theorem encNibble (x : BitVec 16) : Statement (.encNibble x) := of_parts _
theorem charValue (c : Byte) : Statement (.charValue c) := of_parts _
theorem charCode (c : Byte) : Statement (.charCode c) := of_parts _
theorem charValid (c : Byte) : Statement (.charValid c) := of_parts _
theorem readSlot (idx : SlotIndex) : Statement (.readSlot idx) := of_parts _

end Sys2Proof.Laws.WellFormed
end

