-- ==== Sys2Proof/Tests/Slice0.lean ====
section
/-! SUPPORT. The tests: ill-formed fields, words written out from the encodings, one-step vectors, and for every statement that has
hypotheses a concrete case that meets them. Expected results come from spec/95_test_vectors.md (named by its vector) or from the rule
cited. -/

namespace Sys2Proof.Tests

open Sys2Proof Sys2Proof.Machine Sys2Proof.Safety

/-! ## Well-formedness: each check refuses an ill-formed term -/

theorem test_ill_formed_reserved_opcodes :
    Fields.wellFormed { op := 0x0#4, rsv := 0#12, operand := 0#16 } = false ∧
    Fields.wellFormed { op := 0xE#4, rsv := 0#12, operand := 0#16 } = false ∧
    Fields.wellFormed { op := 0xF#4, rsv := 0#12, operand := 0x1234#16 } = false := by decide

theorem test_ill_formed_rsv :
    Fields.wellFormed { op := 0x2#4, rsv := 1#12, operand := 0#16 } = false ∧
    Fields.wellFormed { op := 0x3#4, rsv := 0x800#12, operand := 0xABCD#16 } = false := by decide

theorem test_ill_formed_z_operand :
    Fields.wellFormed { op := 0x1#4, rsv := 0#12, operand := 1#16 } = false ∧
    Fields.wellFormed { op := 0x8#4, rsv := 0#12, operand := 0x00FF#16 } = false := by decide

theorem test_ill_formed_slot_index :
    Fields.wellFormed { op := 0xD#4, rsv := 0#12, operand := 4#16 } = false ∧
    Fields.wellFormed { op := 0xD#4, rsv := 0#12, operand := 0x8000#16 } = false := by decide

theorem test_ill_formed_character :
    Fields.wellFormed { op := 0x5#4, rsv := 0#12, operand := 0x0133#16 } = false ∧
    Fields.wellFormed { op := 0xC#4, rsv := 0#12, operand := 0x8000#16 } = false := by decide

theorem test_well_formed_fields :
    Fields.wellFormed { op := 0x9#4, rsv := 0#12, operand := 0xFFF5#16 } = true ∧
    Fields.wellFormed { op := 0xD#4, rsv := 0#12, operand := 3#16 } = true := by decide

/-! ## Decoding: words written out from R64 to R70, a word of every constructor (L2.1, L2.2, E3, E9) -/

theorem test_decode_init : decode 0b0001_000000000000_0000000000000000#32 = .command .init := by decide
theorem test_decode_clear : decode 0b0010_000000000000_0000000000000000#32 = .command .clear := by decide
theorem test_decode_write : decode 0b0011_000000000000_1010101111001101#32 = .command (.write 0xABCD#16) := by decide
theorem test_decode_printBegin : decode 0b0100_000000000000_0000000000000000#32 = .command .printBegin := by decide
theorem test_decode_printChar : decode 0b0101_000000000000_00000000_00110011#32 = .command (.printChar 0x33#8) := by decide
theorem test_decode_printEnd : decode 0b0110_000000000000_0000000000000000#32 = .command .printEnd := by decide
theorem test_decode_printRaw : decode 0b0111_000000000000_0000000000000000#32 = .command .printRaw := by decide
theorem test_decode_refresh : decode 0b1000_000000000000_0000000000000000#32 = .command .refresh := by decide
theorem test_decode_encNibble : decode 0b1001_000000000000_1111111111110101#32 = .command (.encNibble 0xFFF5#16) := by decide
theorem test_decode_charValue : decode 0b1010_000000000000_00000000_01000111#32 = .command (.charValue 0x47#8) := by decide
theorem test_decode_charCode : decode 0b1011_000000000000_00000000_00101101#32 = .command (.charCode 0x2D#8) := by decide
theorem test_decode_charValid : decode 0b1100_000000000000_00000000_11000001#32 = .command (.charValid 0xC1#8) := by decide
theorem test_decode_readSlot : decode 0b1101_000000000000_00000000000000_11#32 = .command (.readSlot 3#2) := by decide

/-- L2.1, the refused words. -/
theorem test_decode_refusals :
    decode 0x00000000#32 = .refuse .reservedOpcode ∧
    decode 0xE0000000#32 = .refuse .reservedOpcode ∧
    decode 0xF0001234#32 = .refuse .reservedOpcode ∧
    decode 0x10000001#32 = .refuse .reservedBitsNonZero ∧
    decode 0x20010000#32 = .refuse .reservedBitsNonZero ∧
    decode 0x3800ABCD#32 = .refuse .reservedBitsNonZero ∧
    decode 0x50000133#32 = .refuse .reservedBitsNonZero ∧
    decode 0x800000FF#32 = .refuse .reservedBitsNonZero ∧
    decode 0xD0000004#32 = .refuse .reservedBitsNonZero := by decide

/-- L2.1 through the host's numbering of a row's bits. -/
theorem test_decodeTableWord :
    decodeTableWord 32 0x3000ABCD = some (.write 0xABCD#16) ∧ decodeTableWord 32 0xD0000004 = none ∧
    decodeTableWord 32 0xE0000000 = none := by decide

/-- E3: the words of `PRINT "1.23"`. -/
theorem test_print_words :
    printWords [0x31#8, 0x2E#8, 0x32#8, 0x33#8] =
      [0x40000000#32, 0x50000033#32, 0x50000032#32, 0x5000002E#32, 0x50000031#32, 0x60000000#32] := by decide

/-- R75 and R76: the PRINT line of E9's text "5." and a line with an escape. -/
theorem test_assemble_print :
    assembleLine ['P', 'R', 'I', 'N', 'T', ' ', '"', '5', '.', '"'] =
      some [0x40000000#32, 0x5000002E#32, 0x50000035#32, 0x60000000#32] ∧
    assembleLine ['P', 'R', 'I', 'N', 'T', ' ', '"', '\\', 'x', '0', '0', '"'] =
      some [0x40000000#32, 0x50000000#32, 0x60000000#32] := by decide

/-! ## Small states -/

/-- The state 95_test_vectors.md starts from: INIT has run, no print is open, the cursor is 0, every slot is BLANK. -/
def ready : State :=
  { State.reset with
    slots := ⟨⟨0x00#8, 0#4, 0x00#8⟩, ⟨0x00#8, 0#4, 0x00#8⟩, ⟨0x00#8, 0#4, 0x00#8⟩, ⟨0x00#8, 0#4, 0x00#8⟩⟩
    inited := true
    segOut := .level 0x00#8
    selOut := .level 0b0001#4
    issuer := some .host }

/-- The state before INIT with blank slots. -/
def cold : State := { ready with inited := false, segOut := .undriven, selOut := .undriven }

/-- A print open and walking, its next slot 3. -/
def walking : State := { ready with prState := .walk, prPos := 3#2 }

/-- A print open whose walk has stopped. -/
def stopped : State := { ready with prState := .stopped, prPos := 0#2 }

/-- A print open whose walk was aborted. -/
def aborted : State := { ready with prState := .aborted, prPos := 1#2 }

/-- A block that holds a fault mark. -/
def broken : State := { ready with faulted := some .notInitialised }

/-- The slots after E3 under GK1's table: "1.23". -/
def shown : State :=
  { ready with
    slots := ⟨⟨0x00#8, 0#4, 0x00#8⟩, ⟨0x06#8, 1#4, 0x31#8⟩, ⟨0xDB#8, 2#4, 0x32#8⟩, ⟨0x4F#8, 3#4, 0x33#8⟩⟩ }

/-- The state after one step on a word the host presents. -/
def ran (s : State) (w : Nat) : State :=
  match step (s.withFetchWord 32 w) with
  | .next t => t
  | .fault _ => s
  | .refused _ => s

/-! ## One step, by the vectors -/

/-- R94, R133: the set-up calls of both ports, and `inited`. -/
theorem test_init_sets_up_both_ports :
    (ran cold 0x10000000).inited = true ∧ (ran cold 0x10000000).out.segSetup = [.init, .portModeOutput] ∧
    (ran cold 0x10000000).out.selSetup = [.init, .portModeOutput] ∧ (ran cold 0x10000000).out.events = [] := by decide

/-- R95: a repeat keeps the port levels. -/
theorem test_init_again_keeps_the_levels :
    (ran ready 0x10000000).segOut = .level 0x00#8 ∧ (ran ready 0x10000000).selOut = .level 0b0001#4 := by decide

/-- L2.3: CLEAR at cursor 2. -/
theorem test_clear_keeps_the_cursor :
    (ran { shown with cursor := 2#2 } 0x20000000).slots = ready.slots ∧
    (ran { shown with cursor := 2#2 } 0x20000000).cursor = 2#2 := by decide

/-- E2. -/
theorem test_write_abcd :
    (ran ready 0x3000ABCD).slots =
      ⟨⟨Config.segTable 10#4, 0xA#4, 0x41#8⟩, ⟨Config.segTable 11#4, 0xB#4, 0x42#8⟩,
        ⟨Config.segTable 12#4, 0xC#4, 0x43#8⟩, ⟨Config.segTable 13#4, 0xD#4, 0x44#8⟩⟩ := by rfl

/-- L2.3: WRITE needs no INIT. -/
theorem test_write_before_init :
    (ran cold 0x300000A0).slots =
      ⟨⟨Config.segTable 0#4, 0#4, 0x30#8⟩, ⟨Config.segTable 0#4, 0#4, 0x30#8⟩,
        ⟨Config.segTable 10#4, 0xA#4, 0x41#8⟩, ⟨Config.segTable 0#4, 0#4, 0x30#8⟩⟩ := by rfl

/-- R101. -/
theorem test_printBegin_opens :
    (ran shown 0x40000000).slots = ready.slots ∧ (ran shown 0x40000000).prState = .walk ∧
    (ran shown 0x40000000).prPos = 3#2 := by decide

/-- E3: the '2' after the '3'. -/
theorem test_printChar_digit :
    (ran { walking with prPos := 2#2 } 0x50000032).slots.at2 = ⟨0x00#8 ||| Config.segTable 2#4, 2#4, 0x32#8⟩ ∧
    (ran { walking with prPos := 2#2 } 0x50000032).prPos = 1#2 := by
  exact ⟨rfl, rfl⟩

/-- E9: a leading '.' goes to slot 0; L2.4 "1.23": a later one to the slot just written. -/
theorem test_printChar_dot :
    (ran walking 0x5000002E).slots.at0 = ⟨0x80#8, 0#4, 0x00#8⟩ ∧
    (ran { walking with slots := shown.slots, prPos := 1#2 } 0x5000002E).slots.at2 = ⟨0xDB#8, 2#4, 0x32#8⟩ ∧
    (ran { walking with slots := shown.slots, prPos := 2#2 } 0x5000002E).slots.at3 = ⟨0xCF#8, 3#4, 0x33#8⟩ := by decide

/-- E4: the answer of an aborted print, and of one that was not. -/
theorem test_printEnd_result :
    (ran aborted 0x60000000).out.response = some (.bool false) ∧ (ran walking 0x60000000).out.response = some (.bool true) ∧
    (ran stopped 0x60000000).out.response = some (.bool true) ∧ (ran aborted 0x60000000).prState = .idle := by decide

/-- L2.5: PRINT_END with no print open. -/
theorem test_printEnd_not_open :
    (ran ready 0x60000000).faulted = some (.printNotOpen .printEnd) ∧ (ran ready 0x60000000).out.response = none := by decide

/-- L2.5: PRINT_RAW. -/
theorem test_printRaw_answers_false :
    (ran shown 0x70000000).out.response = some (.bool false) ∧ (ran shown 0x70000000).slots = shown.slots ∧
    (ran walking 0x70000000).faulted = some (.printOpen .printRaw) := by decide

/-- L2.6: REFRESH after E3 at cursor 2, under GK1. -/
theorem test_refresh_shows_the_point :
    (ran { shown with cursor := 2#2 } 0x80000000).out.events = [.selWrite 0b0010#4, .segWrite 0xDB#8] ∧
    (ran { shown with cursor := 2#2 } 0x80000000).cursor = 3#2 := by decide

/-- L2.6: the wrap at cursor 3, and the fault before INIT. -/
theorem test_refresh_wraps_and_faults :
    (ran { shown with cursor := 3#2 } 0x80000000).cursor = 0#2 ∧
    (ran cold 0x80000000).faulted = some .notInitialised ∧ (ran cold 0x80000000).out.events = [] ∧
    (ran cold 0x80000000).cursor = 0#2 := by decide

/-- L2.2: ENC_NIBBLE masks. -/
theorem test_encNibble_masks :
    (ran cold 0x90000015).out.response = some (.bits8 (Config.segTable 5#4)) ∧
    (ran ready 0x9000FFFF).out.response = some (.bits8 (Config.segTable 15#4)) := by
  exact ⟨rfl, rfl⟩

/-- L2.2: CHAR_VALUE at the ends of its ranges. -/
theorem test_charValue_bounds :
    (ran ready 0xA0000030).out.response = some (.bits4 0#4) ∧ (ran ready 0xA0000039).out.response = some (.bits4 9#4) ∧
    (ran ready 0xA0000041).out.response = some (.bits4 10#4) ∧ (ran ready 0xA0000046).out.response = some (.bits4 15#4) ∧
    (ran ready 0xA000003A).out.response = some (.bits4 0#4) ∧ (ran ready 0xA0000040).out.response = some (.bits4 0#4) ∧
    (ran ready 0xA0000047).out.response = some (.bits4 0#4) := by decide

/-- L2.2: a lowercase letter follows `ROM_LOWERCASE`. -/
theorem test_charValue_lowercase :
    (ran ready 0xA0000061).out.response = some (.bits4 (if Config.romLowercase = true then 10#4 else 0#4)) := by
  cases h : Config.romLowercase <;> simp [ran, step, State.withFetchWord, State.presentNext, ready, State.reset,
    State.nextCommand, State.present, Request.word, decode, decodeFields, Fields.ofWord, opcodeOf, Format.operandOk,
    Opcode.format, Opcode.command, exec, execCharValue, whenRunning, respond, charToValue, isDigit, isUpperHex, isLowerHex, h]

/-- L2.2: CHAR_CODE's fixed literals and a letter. -/
theorem test_charCode :
    (ran ready 0xB000002D).out.response = some (.bits8 0x40#8) ∧ (ran ready 0xB0000020).out.response = some (.bits8 0x00#8) ∧
    (ran ready 0xB0000043).out.response = some (.bits8 (Config.segTable 12#4)) ∧
    (ran ready 0xB000002E).out.response = some (.bits8 (Config.segTable 0#4)) := by
  exact ⟨rfl, rfl, rfl, rfl⟩

/-- L2.2: CHAR_VALID just outside the ranges. -/
theorem test_charValid_rejects :
    (ran ready 0xC000001F).out.response = some (.bool false) ∧ (ran ready 0xC0000021).out.response = some (.bool false) ∧
    (ran ready 0xC000002F).out.response = some (.bool false) ∧ (ran ready 0xC000003A).out.response = some (.bool false) ∧
    (ran ready 0xC0000040).out.response = some (.bool false) ∧ (ran ready 0xC0000067).out.response = some (.bool false) ∧
    (ran ready 0xC00000C1).out.response = some (.bool false) := by decide

/-- L2.2 and L2.5: CHAR_VALID at the ends of the ranges, in an open print too. -/
theorem test_charValid_accepts :
    (ran walking 0xC0000047).out.response = some (.bool false) ∧ (ran walking 0xC0000047).prState = .walk ∧
    (ran ready 0xC0000020).out.response = some (.bool true) ∧ (ran ready 0xC0000046).out.response = some (.bool true) ∧
    (ran ready 0xC0000061).out.response = some (.bool true) ∧ (ran ready 0xC0000066).out.response = some (.bool true) := by decide

/-- E3: READ_SLOT 2 responds 0x1322DB under GK1; READ_SLOT of a blank slot responds 0 (L2.3). -/
theorem test_readSlot_packs :
    (ran shown 0xD0000002).out.response = some (.slotView 0x1322DB#21) ∧
    (ran shown 0xD0000000).out.response = some (.slotView 0x000000#21) := by decide

/-- P4(c): a refused word from reset. -/
theorem test_refused_word :
    step (State.reset.withFetchWord 32 0xE0000000) =
      .next { State.reset with faulted := some (.refusedWord .reservedOpcode 0xE0000000#32), issuer := some .host,
                               out := Output.silent (some .host) } := by rfl

/-- R39: no step after that. -/
theorem test_faulted_block_stops : step broken = .fault (.blockFaulted .notInitialised) := by rfl

/-! ## Cases that meet the statements' hypotheses, one per statement and clause -/

theorem witness_decodeOfEncode :
    Instr.wellFormed (.write 0xFFFF#16) = true ∧ Instr.wellFormed (.printChar 0xFF#8) = true ∧
    Instr.wellFormed (.readSlot 3#2) = true := by decide

theorem witness_encodeOfDecode : decode 0xD0000003#32 = .command (.readSlot 3#2) := by decide

/-- The three fields of a word as numbers, as the statement about the opcode map reads them. -/
def fieldsOf (w : Word) : Nat × Nat × Nat := (w.toNat / 2 ^ 28, w.toNat / 2 ^ 16 % 2 ^ 12, w.toNat % 2 ^ 16)

theorem witness_opcodeMap_refused :
    fieldsOf 0x00000000#32 = (0, 0, 0) ∧ fieldsOf 0xE0000000#32 = (14, 0, 0) ∧ fieldsOf 0xFFFFFFFF#32 = (15, 4095, 65535) ∧
    fieldsOf 0x10010000#32 = (1, 1, 0) ∧ fieldsOf 0xD8000000#32 = (13, 2048, 0) ∧ fieldsOf 0x10000001#32 = (1, 0, 1) ∧
    fieldsOf 0x8000FFFF#32 = (8, 0, 65535) ∧ fieldsOf 0x50000100#32 = (5, 0, 256) ∧ fieldsOf 0xC000FFFF#32 = (12, 0, 65535) ∧
    fieldsOf 0xD0000004#32 = (13, 0, 4) := by decide

theorem witness_opcodeMap_accepted :
    fieldsOf 0x10000000#32 = (1, 0, 0) ∧ fieldsOf 0x20000000#32 = (2, 0, 0) ∧ fieldsOf 0x3000FFFF#32 = (3, 0, 65535) ∧
    fieldsOf 0x40000000#32 = (4, 0, 0) ∧ fieldsOf 0x500000FF#32 = (5, 0, 255) ∧ fieldsOf 0x60000000#32 = (6, 0, 0) ∧
    fieldsOf 0x70000000#32 = (7, 0, 0) ∧ fieldsOf 0x80000000#32 = (8, 0, 0) ∧ fieldsOf 0x90000000#32 = (9, 0, 0) ∧
    fieldsOf 0xA00000FF#32 = (10, 0, 255) ∧ fieldsOf 0xB0000000#32 = (11, 0, 0) ∧ fieldsOf 0xC00000FF#32 = (12, 0, 255) ∧
    fieldsOf 0xD0000003#32 = (13, 0, 3) := by decide

theorem witness_printExpands : 1 < [0x31#8, 0x32#8].length ∧ 0 < [0x31#8, 0x32#8].length := by decide

theorem witness_stepRuns_host :
    Running ready ∧ (ready.presentNext 0x3000ABCD#32).inbox = [.host 0x3000ABCD#32] ∧
    decode (Request.host 0x3000ABCD#32).word = .command (.write 0xABCD#16) := by decide

theorem witness_stepRuns_tick :
    Running ready ∧ ({ ready with inbox := [.tick true, .tick false] } : State).inbox = .tick true :: [.tick false] ∧
    decode (Request.tick true).word = .command .refresh ∧ decode (Request.tick false).word = .command .refresh := by decide

theorem witness_refusedWord :
    Running ready ∧ (ready.presentNext 0xD0000004#32).inbox = .host 0xD0000004#32 :: [] ∧
    decode 0xD0000004#32 = .refuse .reservedBitsNonZero ∧ decode 0xF0000000#32 = .refuse .reservedOpcode := by decide

theorem witness_faulted : broken.faulted = some .notInitialised := rfl

theorem witness_waiting : Running ready ∧ ready.inbox = [] := by decide

/-- Commands whose operands no value of makes a fault. -/
theorem witness_unmarked :
    (Running cold ∧ IsLookup (.charValid 0xFF#8)) ∧ (Running walking ∧ ∃ idx, Instr.readSlot 3#2 = .readSlot idx) ∧
    (Running ready ∧ (∃ v, Instr.write 0xFFFF#16 = .write v) ∧ ready.prState = .idle) ∧
    (Running walking ∧ (∃ c, Instr.printChar 0x00#8 = .printChar c) ∧ walking.prState ≠ .idle) :=
  ⟨⟨rfl, .inr (.inr (.inr ⟨_, rfl⟩))⟩, ⟨rfl, _, rfl⟩, ⟨rfl, ⟨_, rfl⟩, rfl⟩, rfl, ⟨_, rfl⟩, by decide⟩

theorem witness_running : Running ready ∧ Running cold ∧ Running walking ∧ Running stopped ∧ Running aborted := by decide

/-- A presented command that marks, for each row of R125's table, and one that does not. -/
theorem witness_closedList :
    (Running cold ∧ decode 0x80000000#32 = .command .refresh ∧ cold.inited = false) ∧
    (Running walking ∧ decode 0x30001234#32 = .command (.write 0x1234#16) ∧ walking.prState ≠ .idle) ∧
    (Running ready ∧ decode 0x50000031#32 = .command (.printChar 0x31#8) ∧ ready.prState = .idle) ∧
    (Running ready ∧ decode 0xE0000000#32 = .refuse .reservedOpcode) ∧
    (Running ready ∧ decode 0x20000000#32 = .command .clear) := by decide

/-- A block that takes a step, marked by it: the second half of the statement on R125. -/
theorem witness_closedList_marked :
    ∃ t, step (ready.presentNext 0x60000000#32) = .next t ∧ t.faulted = some (.printNotOpen .printEnd) := ⟨_, rfl, rfl⟩

theorem witness_lookup :
    IsLookup (.encNibble 0xFFFF#16) ∧ IsLookup (.charValue 0x66#8) ∧ IsLookup (.charCode 0x20#8) ∧ IsLookup (.charValid 0xFF#8) ∧
    Running cold ∧ Running walking := by
  refine ⟨.inl ⟨_, rfl⟩, .inr (.inl ⟨_, rfl⟩), .inr (.inr (.inl ⟨_, rfl⟩)), .inr (.inr (.inr ⟨_, rfl⟩)), ?_⟩
  decide

/-- INIT: first, repeated, and in an open print. -/
theorem witness_init :
    (Running cold ∧ cold.prState = .idle ∧ cold.inited = false) ∧ (Running ready ∧ ready.prState = .idle ∧ ready.inited = true) ∧
    (Running walking ∧ walking.prState ≠ .idle) := by decide

/-- CLEAR, WRITE, PRINT_RAW and PRINT_BEGIN: no print open, and a print open in each of its states. -/
theorem witness_printClosed_or_open :
    (Running shown ∧ shown.prState = .idle) ∧ (Running walking ∧ walking.prState ≠ .idle) ∧
    (Running stopped ∧ stopped.prState ≠ .idle) ∧ (Running aborted ∧ aborted.prState ≠ .idle) := by decide

/-- Invalid characters at the edges of the accepted ranges, 0x00 and 0xFF among them. -/
theorem witness_invalidCharacter :
    Running walking ∧ walking.prState = .walk ∧
    ∀ c ∈ [0x00#8, 0x1F#8, 0x21#8, 0x2C#8, 0x2F#8, 0x3A#8, 0x40#8, 0x47#8, 0x60#8, 0x67#8, 0xFF#8],
      ¬(c.toNat = 0x20 ∨ c.toNat = 0x2D ∨ c.toNat = 0x2E ∨ (0x30 ≤ c.toNat ∧ c.toNat ≤ 0x39) ∨
        (0x41 ≤ c.toNat ∧ c.toNat ≤ 0x46) ∨ (0x61 ≤ c.toNat ∧ c.toNat ≤ 0x66)) := by decide

theorem witness_dot : Running walking ∧ walking.prState = .walk ∧ ({ walking with prPos := 0#2 } : State).prState = .walk := by decide

/-- Digit characters at the ends of the ranges, with the walk on its last slot and on another. -/
theorem witness_digit :
    (Running walking ∧ walking.prState = .walk ∧ walking.prPos.toNat ≠ 0) ∧
    (Running { walking with prPos := 0#2 } ∧ ({ walking with prPos := 0#2 } : State).prState = .walk ∧
      ({ walking with prPos := 0#2 } : State).prPos.toNat = 0) ∧
    ∀ c ∈ [0x20#8, 0x2D#8, 0x30#8, 0x39#8, 0x41#8, 0x46#8, 0x61#8, 0x66#8],
      Machine.isValidChar (upper c) = true ∧ upper c ≠ 0x2E#8 := by decide

theorem witness_walkEnded :
    (Running stopped ∧ stopped.prState = .stopped) ∧ (Running aborted ∧ aborted.prState = .aborted) ∧
    (Running ready ∧ ready.prState = .idle) := by decide

theorem witness_printEnd :
    (Running walking ∧ walking.prState = .walk) ∧ (Running stopped ∧ stopped.prState = .stopped) ∧
    (Running aborted ∧ aborted.prState = .aborted) ∧ (Running ready ∧ ready.prState = .idle) := by decide

/-- "1." printed with a REFRESH before and between its commands, and a text printed with none. -/
theorem witness_print :
    Running shown ∧ shown.prState = .idle ∧ shown.inited = true ∧
    ([.refresh, .printBegin, .printChar 0x2E#8, .refresh, .printChar 0x31#8].filter fun i => decide (i ≠ .refresh)) ++ [.printEnd] =
      printCommands [0x31#8, 0x2E#8] ∧
    ([.printBegin].filter fun i => decide (i ≠ .refresh)) ++ [.printEnd] = printCommands [] ∧
    ¬Instr.refresh ∈ [Instr.printBegin] := by decide

/-- R109's groups of `"1.2.3.4."`, with a leading '.'. -/
theorem witness_closedForm :
    ∀ g ∈ [(0x34#8, 1), (0x33#8, 1), (0x61#8, 0), (0x20#8, 2), (0x2D#8, 0)],
      Machine.isValidChar (upper g.1) = true ∧ g.1 ≠ 0x2E#8 := by decide

theorem witness_printSequencing :
    (Running walking ∧ NeedsPrintClosed .init ∧ walking.prState ≠ .idle) ∧
    (Running ready ∧ NeedsPrintOpen (.printChar 0x31#8) ∧ ready.prState = .idle) ∧
    (NeedsPrintClosed (.write 0#16) → ready.prState = .idle) ∧ (NeedsPrintOpen .printEnd → walking.prState ≠ .idle) := by
  refine ⟨⟨rfl, .inl rfl, by decide⟩, ⟨rfl, .inl ⟨_, rfl⟩, rfl⟩, fun _ => rfl, fun _ => by decide⟩

/-- A command that meets the last clause's two conditions together and is no REFRESH. -/
theorem witness_printSequencing_valid :
    Running ready ∧ (NeedsPrintClosed .clear → ready.prState = .idle) ∧ (NeedsPrintOpen .clear → ready.prState ≠ .idle) ∧
    Instr.clear ≠ .refresh := by
  refine ⟨rfl, fun _ => rfl, fun h => ?_, by decide⟩
  simp [NeedsPrintOpen] at h

theorem witness_refresh :
    (Running ready ∧ ready.inited = true ∧ ready.overlap = none) ∧
    (({ ready with overlap := some ⟨0x71#8, 0x71#8, 0x71#8, 0x71#8⟩ } : State).overlap =
      some ⟨0x71#8, 0x71#8, 0x71#8, 0x71#8⟩) ∧
    (Running cold ∧ cold.inited = false) := by decide

/-- A REFRESH that answers, at each cursor. -/
theorem witness_refreshStateMachine :
    (∃ t, exec .refresh ready = .next t) ∧ (∃ t, exec .refresh { ready with cursor := 1#2 } = .next t) ∧
    (∃ t, exec .refresh { ready with cursor := 2#2 } = .next t) ∧ (∃ t, exec .refresh { ready with cursor := 3#2 } = .next t) ∧
    (Instr.clear ≠ .refresh ∧ ∃ t, exec .clear ready = .next t) :=
  ⟨⟨_, rfl⟩, ⟨_, rfl⟩, ⟨_, rfl⟩, ⟨_, rfl⟩, by decide, _, rfl⟩

/-- L2.6's last row: WRITE 0x1234 with the tick's REFRESH after it, or during it. -/
theorem witness_overlapping :
    Running ready ∧ ready.prState = .idle ∧ ready.inited = true ∧ WritesAllSlots (.write 0x1234#16) ∧
    ({ ready with inbox := [.host 0x30001234#32, .tick true] } : State).inbox =
      .host (encode (.write 0x1234#16)) :: .tick true :: [] ∧
    ({ ready with inbox := [.host 0x30001234#32, .tick false] } : State).inbox =
      .host (encode (.write 0x1234#16)) :: .tick false :: [] :=
  ⟨rfl, rfl, rfl, .inr (.inl ⟨_, rfl⟩), by decide, by decide⟩

/-- The host holds the tick off: a tick's REFRESH is next, and one of the host's. -/
theorem witness_tickHeldOff :
    TickHeldOff { ready with inbox := [.tick false, .host 0x80000000#32] } ∧ Running ready ∧ ready.inited = true ∧
    decode (Request.tick false).word = .command .refresh ∧ decode (Request.host 0x80000000#32).word = .command .refresh ∧
    ∃ t, step { ready with inbox := [.tick false, .host 0x80000000#32] } = .next t :=
  ⟨by unfold TickHeldOff; decide, rfl, rfl, by decide, by decide, _, rfl⟩

theorem witness_afterClear : Running shown ∧ shown.prState = .idle ∧ shown.inited = true := by decide

theorem witness_portsFollowInit :
    PortsFollowInit ready ∧ PortsFollowInit cold ∧ (∃ t, step (cold.presentNext 0x10000000#32) = .next t) ∧
    ∃ t, step (ready.presentNext 0x80000000#32) = .next t :=
  ⟨⟨by decide, fun _ => ⟨⟨_, rfl⟩, _, rfl⟩⟩, ⟨by decide, by decide⟩, ⟨_, rfl⟩, _, rfl⟩

/-- A blank slot is blank, and shows a reachable code and says what it shows. -/
theorem blank_ready (i : SlotIndex) : ready.slots.get i = blankSlot := by
  revert i
  decide

theorem witness_codesReachable :
    CodesReachable walking ∧ WalkAheadBlank walking ∧ ∃ t, step (walking.presentNext 0x50000033#32) = .next t := by
  refine ⟨fun i => ?_, fun _ i _ => .inl (blank_ready i), _, rfl⟩
  rw [show walking.slots.get i = blankSlot from blank_ready i]
  exact .inr (.inr (.inr (.inl rfl)))

theorem witness_loadMakesReachable :
    Running shown ∧ shown.prState = .idle ∧ WritesAllSlots .clear ∧ WritesAllSlots (.write 0xFFFF#16) ∧ WritesAllSlots .printBegin :=
  ⟨rfl, rfl, .inl rfl, .inr (.inl ⟨_, rfl⟩), .inr (.inr rfl)⟩

theorem witness_slotsCoherent :
    SlotsCoherent walking ∧ WalkAheadBlank walking ∧ ∃ t, step (walking.presentNext 0x50000033#32) = .next t := by
  refine ⟨fun i => ?_, fun _ i _ => .inl (blank_ready i), _, rfl⟩
  rw [show walking.slots.get i = blankSlot from blank_ready i]
  exact .inl ⟨rfl, rfl, .inl rfl⟩

/-- The walk past a leading '.': slot 0 is BLANK but for its decimal point. -/
theorem witness_walkAheadBlank_point : WalkAheadBlank (ran walking 0x5000002E) := by
  intro _
  refine forall_slot.mpr ⟨?_, ?_, ?_, ?_⟩
  · exact fun _ => .inr ⟨rfl, by decide⟩
  · exact fun _ => .inl (by decide)
  · exact fun _ => .inl (by decide)
  · exact fun _ => .inl (by decide)

theorem witness_oneHot :
    OneHotEvents ready.out.events ∧ OneHotEvents (ran shown 0x80000000).out.events ∧
    ∃ t, step (ready.presentNext 0x80000000#32) = .next t :=
  ⟨.inl rfl, .inr ⟨0#2, 0x00#8, by decide⟩, _, rfl⟩

/-- Commands that answer a next state, for the frames: one of each kind, one that marks among them. -/
theorem witness_frames :
    (∃ t, exec (.readSlot 3#2) ready = .next t) ∧ (∃ t, exec (.printChar 0x46#8) walking = .next t) ∧
    (∃ t, exec .init ready = .next t) ∧ (∃ t, exec .init cold = .next t) ∧ (∃ t, exec .printEnd walking = .next t) ∧
    (∃ t, exec .clear walking = .next t) :=
  ⟨⟨_, rfl⟩, ⟨_, rfl⟩, ⟨_, rfl⟩, ⟨_, rfl⟩, ⟨_, rfl⟩, _, rfl⟩

/-- PRINT_CHAR answers a next state in each clause of the slots' frame: no walk open, an invalid character, a '.', a digit character at
the walk's first and last slot. -/
theorem witness_frames_printChar :
    (stopped.prState ≠ .walk ∧ ∃ t, exec (.printChar 0x31#8) stopped = .next t) ∧
    (Machine.isValidChar (upper 0x47#8) = false ∧ ∃ t, exec (.printChar 0x47#8) walking = .next t) ∧
    (walking.prState = .walk ∧ ∃ t, exec (.printChar 0x2E#8) walking = .next t) ∧
    (Machine.isValidChar (upper 0x66#8) = true ∧ 0x66#8 ≠ 0x2E#8 ∧ ∃ t, exec (.printChar 0x66#8) walking = .next t) ∧
    ∃ t, exec (.printChar 0x20#8) { walking with prPos := 0#2 } = .next t :=
  ⟨⟨by decide, _, rfl⟩, ⟨by decide, _, rfl⟩, ⟨rfl, _, rfl⟩, ⟨by decide, by decide, _, rfl⟩, _, rfl⟩

/-- The frames' conditions on the command hold of some commands and fail of others. -/
theorem witness_frames_conditions :
    ¬WritesAllSlots (.readSlot 3#2) ∧ (∀ c, Instr.readSlot 3#2 ≠ .printChar c) ∧ ¬WritesAllSlots (.printChar 0x2E#8) ∧
    Instr.init ≠ .refresh ∧ ready.inited = true ∧ Instr.clear ≠ .printBegin ∧ Instr.clear ≠ .printEnd := by
  refine ⟨?_, ?_, ?_, by decide⟩ <;> simp [WritesAllSlots]

theorem witness_decimalPoint_cleared :
    WritesAllSlots (.write 0x1234#16) ∧ ∃ t, exec (.write 0x1234#16) shown = .next t ∧ t.faulted = none :=
  ⟨.inr (.inl ⟨_, rfl⟩), _, rfl, rfl⟩

theorem witness_response :
    (∃ t, exec .printEnd walking = .next t ∧ t.faulted = none) ∧ ∃ t, exec .printEnd ready = .next t ∧ t.faulted ≠ none :=
  ⟨⟨_, rfl, rfl⟩, _, rfl, by decide⟩

theorem witness_cursorHidden : Instr.printChar 0x41#8 ≠ .refresh ∧ Instr.readSlot 0#2 ≠ .refresh := by decide

theorem witness_walkPositionUnread : State.reset.prState ≠ .walk ∧ stopped.prState ≠ .walk ∧ aborted.prState ≠ .walk := by
  refine ⟨?_, ?_, ?_⟩ <;> decide

/-- Two slot files with the same codes and other values and characters, and commands that are no READ_SLOT. -/
theorem witness_sameCodes :
    SlotFile.codes ⟨⟨0x00#8, 7#4, 0x20#8⟩, ⟨0x06#8, 0#4, 0x00#8⟩, ⟨0xDB#8, 2#4, 0x32#8⟩, ⟨0x4F#8, 3#4, 0x33#8⟩⟩ =
      SlotFile.codes shown.slots ∧
    (∀ idx, Instr.refresh ≠ .readSlot idx) ∧ ∀ idx, Instr.printChar 0x2E#8 ≠ .readSlot idx := by decide

end Sys2Proof.Tests
end

/-! PROOFS, 40_rom_lookup.md: the lookup commands ENC_NIBBLE and CHAR_VALUE, and that no lookup reads the state (R79 to R82, R87). -/

namespace Sys2Proof.Machine

open Sys2Proof.Safety

/-- A command that only responds, in a block that holds no mark: one answer and no other change. -/
theorem whenRunning_respond {s : State} (h : Running s) (r : Response) :
    whenRunning s (respond r) = .next { s with out := answer s r } :=
  whenRunning_running h (respond r)

theorem exec_encNibble {s : State} (h : Running s) (x : BitVec 16) :
    exec (.encNibble x) s = .next { s with out := answer s (.bits8 (encodeNibble x)) } :=
  whenRunning_respond h _

theorem exec_charValue {s : State} (h : Running s) (c : Byte) :
    exec (.charValue c) s = .next { s with out := answer s (.bits4 (charToValue c)) } :=
  whenRunning_respond h _

theorem exec_charCode {s : State} (h : Running s) (c : Byte) :
    exec (.charCode c) s = .next { s with out := answer s (.bits8 (charToCode c)) } :=
  whenRunning_respond h _

theorem exec_charValid {s : State} (h : Running s) (c : Byte) :
    exec (.charValid c) s = .next { s with out := answer s (.bool (isValidChar (upper c))) } :=
  whenRunning_respond h _

theorem encode_encNibble (x : BitVec 16) : encode (.encNibble x) = 0x90000000#32 ||| x.setWidth 32 := by
  simp [encode_eq_or, Instr.opcode, Opcode.bits, Instr.operand]

theorem encode_charValue (c : Byte) : encode (.charValue c) = 0xA0000000#32 ||| c.setWidth 32 := by
  simp [encode_eq_or, Instr.opcode, Opcode.bits, Instr.operand]

/-- The low nibble as a number (R79). -/
theorem lowNibble_eq_ofNat_mod (x : BitVec 16) : lowNibble x = BitVec.ofNat 4 (x.toNat % 16) := by
  apply BitVec.eq_of_toNat_eq
  simp [lowNibble]

theorem isDigit_iff (c : Byte) : isDigit c = true ↔ 0x30 ≤ c.toNat ∧ c.toNat ≤ 0x39 := by
  simp [isDigit, BitVec.le_def]

theorem isUpperHex_iff (c : Byte) : isUpperHex c = true ↔ 0x41 ≤ c.toNat ∧ c.toNat ≤ 0x46 := by
  simp [isUpperHex, BitVec.le_def]

theorem isLowerHex_iff (c : Byte) : isLowerHex c = true ↔ 0x61 ≤ c.toNat ∧ c.toNat ≤ 0x66 := by
  simp [isLowerHex, BitVec.le_def]

/-- A byte less than 16 above a base keeps its distance to the base in a nibble. -/
theorem toNat_setWidth_sub_ofNat {c : Byte} {k : Nat} (hk : k ≤ c.toNat) (hlt : c.toNat - k < 16) :
    ((c - BitVec.ofNat 8 k).setWidth 4).toNat = c.toNat - k := by
  have hbase : (BitVec.ofNat 8 k).toNat = k := Nat.mod_eq_of_lt (by omega)
  rw [BitVec.toNat_setWidth, BitVec.toNat_sub_of_le (by rwa [BitVec.le_def, hbase]), hbase, Nat.mod_eq_of_lt hlt]

/-- R81 with the bytes as numbers. -/
theorem toNat_charToValue (c : Byte) :
    (charToValue c).toNat =
      if 0x30 ≤ c.toNat ∧ c.toNat ≤ 0x39 then c.toNat - 0x30
      else if 0x41 ≤ c.toNat ∧ c.toNat ≤ 0x46 then c.toNat - 0x41 + 10
      else if 0x61 ≤ c.toNat ∧ c.toNat ≤ 0x66 ∧ Config.romLowercase = true then c.toNat - 0x61 + 10
      else 0 := by
  simp only [charToValue, Bool.and_eq_true, isDigit_iff, isUpperHex_iff, isLowerHex_iff, and_assoc]
  split_ifs with hd hu hl
  · exact toNat_setWidth_sub_ofNat hd.1 (by omega)
  · rw [toNat_setWidth_sub_ofNat] <;> omega
  · rw [toNat_setWidth_sub_ofNat] <;> omega
  · rfl

/-- Settles O14: R81 case by case, through the value the command responds. -/
theorem charValueMapsHexDigits : Obligations.CharValueMapsHexDigits :=
  fun _ c h => ⟨encode_charValue c, charToValue c, exec_charValue h c, toNat_charToValue c⟩

/-- Settles O13: the operand is masked to its low nibble, and no table entry has bit 7. -/
theorem encNibbleRespondsTheTableEntry : Obligations.EncNibbleRespondsTheTableEntry := by
  intro s x h
  refine ⟨encode_encNibble x, ?_, segTable_bit7 _⟩
  rw [exec_encNibble h, encodeNibble, lowNibble_eq_ofNat_mod]

/-- Settles O17: each lookup's response is a function of its operand alone. -/
theorem lookupsReadNoState : Obligations.LookupsReadNoState := by
  rintro i (⟨x, rfl⟩ | ⟨c, rfl⟩ | ⟨c, rfl⟩ | ⟨c, rfl⟩)
  · exact ⟨_, fun _ h => exec_encNibble h x⟩
  · exact ⟨_, fun _ h => exec_charValue h c⟩
  · exact ⟨_, fun _ h => exec_charCode h c⟩
  · exact ⟨_, fun _ h => exec_charValid h c⟩

end Sys2Proof.Machine

/-! PROOFS, 41_digit_load.md section 5: the print commands, and that PRINT's expansion runs the print program (R100 to R108). -/

namespace Sys2Proof.Machine

open Sys2Proof.Safety

/-! ## The print commands where their state check passes -/

theorem exec_printBegin {s : State} (h : Running s) (hp : PrintClosed s) :
    exec .printBegin s =
      .next { s with
        slots := blankSlots
        overlap := some s.slots.codes
        prPos := 3#2
        prState := .walk
        out := answer s .none } := by
  rw [exec, execPrintBegin, whenPrintClosed_closed _ h hp]
  rfl

theorem exec_printChar {s : State} (h : Running s) (hp : ¬PrintClosed s) (c : Byte) :
    exec (.printChar c) s = .next { walkStep c s with out := answer s .none } := by
  rw [exec, execPrintChar, whenPrintOpen_open _ h hp, walkStep_out]
  rfl

theorem exec_printEnd {s : State} (h : Running s) (hp : ¬PrintClosed s) :
    exec .printEnd s = .next { s with prState := .idle, out := answer s (.bool s.prState.success) } := by
  rw [exec, execPrintEnd, whenPrintOpen_open _ h hp]
  rfl

theorem exec_printEnd_closed {s : State} (h : Running s) (hp : PrintClosed s) :
    exec .printEnd s = .next (marked s (.printNotOpen .printEnd)) := by
  rw [exec, execPrintEnd, whenPrintOpen_closed _ h hp]
  rfl

/-- Settles O29: R108's result is `pr_state ≠ ABORTED`, read off in each print state. -/
theorem printEndReturnsTheResult : Obligations.PrintEndReturnsTheResult := by
  refine ⟨by decide, fun s h => ⟨?_, ?_, exec_printEnd_closed h⟩⟩
  · rintro (hp | hp) <;> rw [exec_printEnd h (by simp [hp]), hp] <;> rfl
  · intro hp
    rw [exec_printEnd h (by simp [hp]), hp]
    rfl

/-! ## One character -/

/-- `upper` with the bytes as numbers (R16). -/
theorem toNat_upper (c : Byte) :
    (upper c).toNat = if 0x61 ≤ c.toNat ∧ c.toNat ≤ 0x7A then c.toNat - 0x20 else c.toNat := by
  simp only [upper, BitVec.le_def, BitVec.toNat_ofNat, Nat.reduceMod, Nat.reducePow]
  split_ifs with hlower
  · rw [BitVec.toNat_sub_of_le (BitVec.le_def.mpr (by simp; omega))]
    rfl
  · rfl

/-- The bytes that are accepted after case normalisation (R85, R103). -/
theorem isValidChar_upper_iff (c : Byte) :
    isValidChar (upper c) = true ↔
      c.toNat = 0x20 ∨ c.toNat = 0x2D ∨ c.toNat = 0x2E ∨ (0x30 ≤ c.toNat ∧ c.toNat ≤ 0x39) ∨
        (0x41 ≤ c.toNat ∧ c.toNat ≤ 0x46) ∨ (0x61 ≤ c.toNat ∧ c.toNat ≤ 0x66) := by
  simp only [isValidChar, Bool.or_eq_true, beq_iff_eq, isDigit_iff, isUpperHex_iff, ← BitVec.toNat_inj, toNat_upper,
    charDash, charDot, charSpace, BitVec.toNat_ofNat, Nat.reduceMod, Nat.reducePow]
  split_ifs <;> omega

@[simp] theorem walkStep_faulted (c : Byte) (s : State) : (walkStep c s).faulted = s.faulted := by
  rw [walkStep_frame]

@[simp] theorem walkStep_inited (c : Byte) (s : State) : (walkStep c s).inited = s.inited := by
  rw [walkStep_frame]

/-- No character closes a print. -/
theorem walkStep_stays_open (c : Byte) {s : State} (h : ¬PrintClosed s) : ¬PrintClosed (walkStep c s) := by
  rcases walkStep_cases c s with e | ⟨-, -, e⟩ | ⟨-, -, e⟩ | ⟨-, -, -, e⟩ <;> rw [e]
  · exact h
  · simp
  · exact h
  · by_cases hz : s.prPos = 0#2
    · simp [writeStep_last _ hz]
    · simpa [writeStep_left _ hz] using h

/-- Settles O25: the character is invalid, so the walk aborts, and PRINT_END answers by the print state. -/
theorem invalidCharacterAbortsThePrint : Obligations.InvalidCharacterAbortsThePrint := by
  intro s c h hp hc
  have hinvalid : isValidChar (upper c) = false := Bool.eq_false_iff.mpr ((isValidChar_upper_iff c).not.mpr hc)
  constructor
  · rw [exec_printChar h (by simp [hp]), walkStep_invalid hp hinvalid]
  · exact exec_printEnd (s := { s with prState := .aborted, out := answer s .none }) h (by simp)

/-- Settles O26: the DP step writes slot `prPos + 1`, taken mod 4, and that slot only. -/
theorem dotSetsTheDecimalPoint : Obligations.DotSetsTheDecimalPoint := by
  intro s h hp
  refine ⟨s.prPos + 1#2, { dpStep s with out := answer s .none }, BitVec.toNat_add .., ?_, rfl, Four.get_set_same .., ?_⟩
  · rw [exec_printChar h (by simp [hp]), walkStep_dot hp (by decide)]
  · exact Four.get_set_ne _ _ _

/-! ## PRINT's commands and the print program (R100) -/

/-- What a print program makes of the characters still to come: the walk goes on from the slots and the position it has reached, or
it has ended and ignores them (R107). -/
def remainingPrint (characters : List Byte) (s : State) : SlotFile × Bool :=
  if s.prState = .walk then printWalk characters s.slots s.prPos else (s.slots, s.prState.success)

theorem remainingPrint_walk {s : State} (h : s.prState = .walk) (characters : List Byte) :
    remainingPrint characters s = printWalk characters s.slots s.prPos := if_pos h

theorem remainingPrint_ended {s : State} (h : s.prState ≠ .walk) (characters : List Byte) :
    remainingPrint characters s = (s.slots, s.prState.success) := if_neg h

theorem remainingPrint_nil (s : State) : remainingPrint [] s = (s.slots, s.prState.success) := by
  by_cases h : s.prState = .walk
  · rw [remainingPrint_walk h, h]
    rfl
  · exact remainingPrint_ended h []

/-- An invalid character ends the program with failure (R103). -/
theorem printWalk_invalid {c : Byte} (hv : isValidChar (upper c) = false) (rest : List Byte) (slots : SlotFile)
    (pos : SlotIndex) : printWalk (c :: rest) slots pos = (slots, false) := by
  simp [printWalk, hv]

/-- A '.' sets a decimal point and does not move the program (R104). -/
theorem printWalk_dot {c : Byte} (hd : upper c = charDot) (rest : List Byte) (slots : SlotFile) (pos : SlotIndex) :
    printWalk (c :: rest) slots pos =
      printWalk rest
        (slots.set (pos + 1#2) { slots.get (pos + 1#2) with code := (slots.get (pos + 1#2)).code ||| dpBit }) pos := by
  have hv : isValidChar charDot = true := by decide
  simp [printWalk, hd, hv]

/-- Any other valid character is written, and the program ends with slot 0 or moves one slot leftward (R105, R106). -/
theorem printWalk_digit {c : Byte} (hv : isValidChar (upper c) = true) (hd : upper c ≠ charDot) (rest : List Byte)
    (slots : SlotFile) (pos : SlotIndex) :
    printWalk (c :: rest) slots pos =
      let written := slots.set pos
        { code := (slots.get pos).code ||| charToCode (upper c), value := charToValue (upper c), ch := upper c }
      if pos = 0#2 then (written, true) else printWalk rest written (pos - 1#2) := by
  simp [printWalk, hv, hd]

/-- One character of the program is one step of the walk. -/
theorem remainingPrint_cons (c : Byte) (characters : List Byte) (s : State) :
    remainingPrint (c :: characters) s = remainingPrint characters (walkStep c s) := by
  by_cases hw : s.prState = .walk
  · rw [remainingPrint_walk hw]
    cases hv : isValidChar (upper c)
    · rw [walkStep_invalid hw hv, printWalk_invalid hv, remainingPrint_ended (by simp)]
      rfl
    · by_cases hd : upper c = charDot
      · rw [walkStep_dot hw hd, printWalk_dot hd, remainingPrint_walk (s := dpStep s) hw]
        rfl
      · rw [walkStep_digit hw hv hd, printWalk_digit hv hd]
        by_cases hz : s.prPos = 0#2
        · rw [writeStep_last _ hz, remainingPrint_ended (by simp), if_pos hz, hz]
          rfl
        · rw [writeStep_left _ hz, remainingPrint_walk (by exact hw), if_neg hz]
  · rw [walkStep_ended c hw, remainingPrint_ended hw, remainingPrint_ended hw]

/-! ## The frame of a run -/

/-- What every command but INIT leaves alone, and every command but REFRESH beside it. -/
def KeepsFrame (refreshed : Prop) (s t : State) : Prop :=
  t.inited = s.inited ∧ t.inbox = s.inbox ∧ t.issuer = s.issuer ∧
    (¬refreshed → t.cursor = s.cursor ∧ t.segOut = s.segOut ∧ t.selOut = s.selOut ∧ t.draws = s.draws)

theorem KeepsFrame.trans {p q : Prop} {s t u : State} (hst : KeepsFrame p s t) (htu : KeepsFrame q t u) :
    KeepsFrame (p ∨ q) s u := by
  obtain ⟨hinited, hinbox, hissuer, hports⟩ := hst
  obtain ⟨hinited', hinbox', hissuer', hports'⟩ := htu
  refine ⟨hinited'.trans hinited, hinbox'.trans hinbox, hissuer'.trans hissuer, fun hpq => ?_⟩
  obtain ⟨hcursor, hseg, hsel, hdraws⟩ := hports fun hp => hpq (.inl hp)
  obtain ⟨hcursor', hseg', hsel', hdraws'⟩ := hports' fun hq => hpq (.inr hq)
  exact ⟨hcursor'.trans hcursor, hseg'.trans hseg, hsel'.trans hsel, hdraws'.trans hdraws⟩

theorem exec_keepsFrame {i : Instr} {s t : State} (h : exec i s = .next t) (hi : i ≠ .init) :
    KeepsFrame (i = .refresh) s t := by
  obtain ⟨-, ⟨_, rfl, -⟩ | he⟩ := exec_cases h
  · exact ⟨rfl, rfl, rfl, fun _ => ⟨rfl, rfl, rfl, rfl⟩⟩
  · cases i with
    | init => contradiction
    | refresh =>
      obtain ⟨-, rfl⟩ := he
      exact ⟨rfl, rfl, rfl, fun hr => absurd rfl hr⟩
    | printChar c =>
      obtain ⟨-, rfl⟩ := he
      rw [walkStep_frame c s]
      exact ⟨rfl, rfl, rfl, fun _ => ⟨rfl, rfl, rfl, rfl⟩⟩
    | clear | write | printBegin | printEnd | printRaw =>
      obtain ⟨-, rfl⟩ := he
      exact ⟨rfl, rfl, rfl, fun _ => ⟨rfl, rfl, rfl, rfl⟩⟩
    | encNibble | charValue | charCode | charValid | readSlot =>
      subst he
      exact ⟨rfl, rfl, rfl, fun _ => ⟨rfl, rfl, rfl, rfl⟩⟩

/-- A run goes on from the next state of its first command. -/
theorem runCommands_cons {i : Instr} {s t : State} (h : exec i { s with overlap := none } = .next t) (rest : List Instr) :
    runCommands (i :: rest) s = runCommands rest t := by
  rw [runCommands, h]

/-- A run without INIT keeps the frame of its commands. -/
theorem runCommands_keepsFrame {commands : List Instr} {s t : State} (h : runCommands commands s = .next t)
    (hi : .init ∉ commands) : KeepsFrame (.refresh ∈ commands) s t := by
  induction commands generalizing s with
  | nil =>
    cases h
    exact ⟨rfl, rfl, rfl, fun _ => ⟨rfl, rfl, rfl, rfl⟩⟩
  | cons i rest ih =>
    obtain ⟨hne, hrest⟩ := List.ne_and_not_mem_of_not_mem_cons hi
    rw [List.mem_cons, eq_comm]
    rw [runCommands] at h
    split at h
    · next u hu => exact (exec_keepsFrame (s := { s with overlap := none }) hu hne.symm).trans (ih h hrest)
    · cases h
    · cases h

/-! ## The run, REFRESH by REFRESH and character by character -/

/-- A state in which PRINT_END has closed a print of slots and result `r`. -/
def PrintEnded (r : SlotFile × Bool) (t : State) : Prop :=
  t.slots = r.1 ∧ t.out = answer t (.bool r.2) ∧ t.faulted = none ∧ PrintClosed t

/-- What a REFRESH that overlaps nothing shows, after INIT (R113). -/
theorem exec_refresh_quiet {s : State} (h : Running s) (hi : s.inited = true) (hq : s.overlap = none) :
    exec .refresh s =
      .next { s with
        selOut := .level (selectBit s.cursor)
        segOut := .level (s.slots.get s.cursor).code
        cursor := s.cursor + 1#2
        out := { answer s .none with
          events := [.selWrite (selectBit s.cursor), .segWrite (s.slots.get s.cursor).code] } } := by
  rw [exec, execRefresh_inited h hi, State.readCode_quiet hq]
  rfl

/-- A REFRESH in a run overlaps nothing, and leaves the slots and the print as they are. -/
theorem runCommands_refresh {s : State} (h : Running s) (hi : s.inited = true) (rest : List Instr) :
    runCommands (.refresh :: rest) s =
      runCommands rest
        { s with
          selOut := .level (selectBit s.cursor)
          segOut := .level (s.slots.get s.cursor).code
          cursor := s.cursor + 1#2
          overlap := none
          out := { answer s .none with
            events := [.selWrite (selectBit s.cursor), .segWrite (s.slots.get s.cursor).code] } } :=
  runCommands_cons (exec_refresh_quiet (s := { s with overlap := none }) h hi rfl) rest

/-- The commands of a run that are no REFRESH. -/
def withoutRefresh (commands : List Instr) : List Instr := commands.filter fun i => decide (i ≠ .refresh)

theorem withoutRefresh_refresh (rest : List Instr) : withoutRefresh (.refresh :: rest) = withoutRefresh rest := rfl

theorem withoutRefresh_cons {i : Instr} (h : i ≠ .refresh) (rest : List Instr) :
    withoutRefresh (i :: rest) = i :: withoutRefresh rest := by
  simp [withoutRefresh, h]

theorem mem_withoutRefresh {i : Instr} {commands : List Instr} (h : i ∈ commands) (hr : i ≠ .refresh) :
    i ∈ withoutRefresh commands :=
  List.mem_filter.mpr ⟨h, decide_eq_true hr⟩

/-- The rest of an open print: characters with any number of REFRESH between them, then PRINT_END. -/
theorem runCommands_openPrint {rest : List Instr} {characters : List Byte} {s : State} (h : Running s) (hp : ¬PrintClosed s)
    (hrest : withoutRefresh rest = characters.map .printChar) (hi : .refresh ∈ rest → s.inited = true) :
    ∃ t, runCommands (rest ++ [.printEnd]) s = .next t ∧ PrintEnded (remainingPrint characters s) t := by
  induction rest generalizing characters s with
  | nil =>
    obtain rfl : characters = [] := List.map_eq_nil_iff.mp hrest.symm
    rw [remainingPrint_nil]
    exact ⟨_, runCommands_cons (exec_printEnd (s := { s with overlap := none }) h hp) [], rfl, rfl, h, rfl⟩
  | cons i rest ih =>
    by_cases hr : i = .refresh
    · subst hr
      rw [List.cons_append, runCommands_refresh h (hi List.mem_cons_self)]
      rw [withoutRefresh_refresh] at hrest
      exact ih h hp hrest fun _ => hi List.mem_cons_self
    · rw [withoutRefresh_cons hr] at hrest
      obtain ⟨c, characters, rfl, rfl, htail⟩ := List.map_eq_cons_iff.mp hrest.symm
      have hstep := remainingPrint_cons c characters { s with overlap := none }
      have hopen := walkStep_stays_open c (s := { s with overlap := none }) hp
      rw [List.cons_append, runCommands_cons (exec_printChar (s := { s with overlap := none }) h hp c)]
      exact hstep ▸ ih (by simpa using h) hopen htail.symm fun hm => by simpa using hi (List.mem_cons_of_mem _ hm)

/-- The commands of a whole print, with any number of REFRESH before and between them. -/
theorem runCommands_print {before : List Instr} {characters : List Byte} {s : State} (h : Running s) (hp : PrintClosed s)
    (hbefore : withoutRefresh before = .printBegin :: characters.map .printChar) (hi : .refresh ∈ before → s.inited = true) :
    ∃ t, runCommands (before ++ [.printEnd]) s = .next t ∧ PrintEnded (printWalk characters blankSlots 3#2) t := by
  induction before generalizing s with
  | nil => cases hbefore
  | cons i rest ih =>
    by_cases hr : i = .refresh
    · subst hr
      rw [List.cons_append, runCommands_refresh h (hi List.mem_cons_self)]
      rw [withoutRefresh_refresh] at hbefore
      exact ih h hp hbefore fun _ => hi List.mem_cons_self
    · rw [withoutRefresh_cons hr] at hbefore
      obtain ⟨rfl, hrest⟩ := List.cons.inj hbefore
      rw [List.cons_append, runCommands_cons (exec_printBegin (s := { s with overlap := none }) h hp)]
      exact runCommands_openPrint h (by simp) hrest fun hm => hi (List.mem_cons_of_mem _ hm)

/-- Settles O30: the run tracks the program character by character, and no command of it but REFRESH leaves the frame. -/
theorem printCommandsRunThePrintProgram : Obligations.PrintCommandsRunThePrintProgram := by
  intro s text before h hp hcommands hi
  have hbefore : withoutRefresh before = .printBegin :: text.reverse.map .printChar :=
    List.append_cancel_right hcommands
  have hinit : Instr.init ∉ before := by
    intro hm
    have hmem := mem_withoutRefresh hm (by decide)
    simp [hbefore] at hmem
  obtain ⟨t, ht, hslots, hout, hfaulted, hclosed⟩ := runCommands_print h hp hbefore hi
  obtain ⟨hinited, hinbox, hissuer, hports⟩ := runCommands_keepsFrame ht (by simpa using hinit)
  refine ⟨t, ht, hslots, ?_, hfaulted, hclosed, hinited, hinbox, hissuer, fun hr => hports (by simpa using hr)⟩
  rw [hout, answer, hissuer]
  rfl

end Sys2Proof.Machine

/-! PROOFS, 42_refresh_mux.md: the refresh state machine (R113, R118). -/

namespace Sys2Proof.Machine

open Sys2Proof.Safety

/-- No command but REFRESH moves the cursor (R118): the frame of a run has it for every command but INIT. -/
theorem exec_cursor {i : Instr} {s t : State} (h : exec i s = .next t) (hi : i ≠ .refresh) : t.cursor = s.cursor := by
  by_cases hinit : i = .init
  · subst hinit
    obtain ⟨-, ⟨_, rfl, -⟩ | ⟨-, ⟨-, rfl⟩ | ⟨-, rfl⟩⟩⟩ := exec_cases h <;> rfl
  · obtain ⟨-, -, -, hports⟩ := exec_keepsFrame h hinit
    exact (hports hi).1

/-- One row of R118, for any slot `k`: a REFRESH that overlaps nothing shows the slot under the cursor and advances the cursor. -/
theorem exec_refresh_row {s t : State} {k : SlotIndex} (h : Running s) (hi : s.inited = true) (hq : s.overlap = none)
    (ht : exec .refresh s = .next t) (hk : s.cursor = k) :
    t.out.events = [.selWrite (selectBit k), .segWrite (s.slots.get k).code] ∧ t.cursor = k + 1#2 := by
  subst hk
  rw [exec_refresh_quiet h hi hq] at ht
  cases ht
  exact ⟨rfl, rfl⟩

/-- Settles O34: each of the four rows is the row of its slot, and every other command keeps the cursor. -/
theorem refreshStateMachine : Obligations.RefreshStateMachine := by
  refine ⟨rfl, fun s t h hi hq ht => ?_, fun s t i hi ht => exec_cursor ht hi⟩
  have row (k : SlotIndex) := exec_refresh_row (k := k) h hi hq ht
  exact ⟨row 0#2, row 1#2, row 2#2, row 3#2⟩

end Sys2Proof.Machine

/-! PROOFS, 70_reset_and_hazards.md: the state at construction (R138). -/

namespace Sys2Proof.Machine

/-- The slot file at construction is `RESET_SLOTS`, read slot by slot; its contents are OPEN (R40). -/
theorem get_reset_slots (i : SlotIndex) : State.reset.slots.get i = resetSlot i := Four.get_ofFn resetSlot i

/-- Settles O41: the slots are `RESET_SLOTS`, and every other value is a field of the state as R40's table lists it. -/
theorem resetLeavesTheStatedValues : Obligations.ResetLeavesTheStatedValues :=
  ⟨get_reset_slots, rfl, rfl, rfl, rfl, rfl, rfl⟩

end Sys2Proof.Machine

/-! PROOFS, 60_exceptions.md section 1: when a command marks the block (R125), what it does otherwise, and what every step keeps. -/

namespace Sys2Proof.Machine

open Sys2Proof.Safety

/-- The reasons of R125's table a command can mark the block with; a refused word is no command. -/
def Faults (i : Instr) (s : State) (reason : FaultReason) : Prop :=
  (reason = .notInitialised ∧ i = .refresh ∧ s.inited = false) ∨
  (reason = .printOpen i ∧ NeedsPrintClosed i ∧ s.prState ≠ .idle) ∨
  (reason = .printNotOpen i ∧ NeedsPrintOpen i ∧ s.prState = .idle)

/-- A command that marks the block does so for a reason of the table, and leaves the state that reason marks. -/
theorem MarksIt.faults {i : Instr} {s t : State} (h : MarksIt i s t) : ∃ reason, Faults i s reason ∧ t = marked s reason := by
  obtain ⟨reason, ht, hreason⟩ := h
  refine ⟨reason, ?_, ht⟩
  cases i with
  | init | clear | write | printBegin | printRaw =>
    obtain ⟨rfl, hp⟩ := hreason
    exact .inr (.inl ⟨rfl, by simp [NeedsPrintClosed], hp⟩)
  | printChar | printEnd =>
    obtain ⟨rfl, hp⟩ := hreason
    exact .inr (.inr ⟨rfl, by simp [NeedsPrintOpen], hp⟩)
  | refresh =>
    obtain ⟨rfl, hi⟩ := hreason
    exact .inl ⟨rfl, rfl, hi⟩
  | encNibble | charValue | charCode | charValid | readSlot => exact hreason.elim

/-- A command that needs no print open faults while one is (R91). -/
theorem exec_faults_printOpen {i : Instr} {s : State} (h : Running s) (hi : NeedsPrintClosed i) (hp : s.prState ≠ .idle) :
    exec i s = .next (marked s (.printOpen i)) := by
  rcases hi with rfl | rfl | ⟨v, rfl⟩ | rfl | rfl <;>
    simp only [exec, execInit, execClear, execWrite, execPrintBegin, execPrintRaw] <;>
    exact whenPrintClosed_open _ h hp _

/-- A command that needs a print open faults while none is (R91). -/
theorem exec_faults_printNotOpen {i : Instr} {s : State} (h : Running s) (hi : NeedsPrintOpen i) (hp : s.prState = .idle) :
    exec i s = .next (marked s (.printNotOpen i)) := by
  rcases hi with ⟨c, rfl⟩ | rfl <;>
    simp only [exec, execPrintChar, execPrintEnd] <;>
    exact whenPrintOpen_closed _ h hp _

/-- REFRESH faults before INIT (R114). -/
theorem exec_faults_notInitialised {s : State} (h : Running s) (hi : s.inited = false) :
    exec .refresh s = .next (marked s .notInitialised) := by
  rw [exec, execRefresh, whenInited_not h hi]
  rfl

/-- In each case of the table the command marks the block. -/
theorem exec_of_faults {i : Instr} {s : State} {reason : FaultReason} (h : Running s) (hf : Faults i s reason) :
    exec i s = .next (marked s reason) := by
  rcases hf with ⟨rfl, rfl, hi⟩ | ⟨rfl, hi, hp⟩ | ⟨rfl, hi, hp⟩
  · exact exec_faults_notInitialised h hi
  · exact exec_faults_printOpen h hi hp
  · exact exec_faults_printNotOpen h hi hp

/-- The state check of a command passes: the table has no case of it. -/
def Passes (i : Instr) (s : State) : Prop := ∀ reason, ¬Faults i s reason

theorem Passes.printClosed {i : Instr} {s : State} (h : Passes i s) (hi : NeedsPrintClosed i) : PrintClosed s :=
  not_not.mp fun hp => h _ (.inr (.inl ⟨rfl, hi, hp⟩))

theorem Passes.inited {s : State} (h : Passes .refresh s) : s.inited = true :=
  Bool.of_not_eq_false fun hi => h _ (.inl ⟨rfl, rfl, hi⟩)

/-- What INIT puts out: its response, and the set-up calls on both ports (R94). -/
def initOutput (s : State) : Output :=
  { answer s .none with segSetup := [.init, .portModeOutput], selSetup := [.init, .portModeOutput] }

/-- What a whole load leaves in the slots (R96, R98, R101). -/
def loadedSlots (i : Instr) : SlotFile :=
  match i with
  | .write v => Four.ofFn fun k => hexSlot (writeNibble v k)
  | _ => blankSlots

/-- The state a command leaves where its state check passes: `HasEffect` as a function, so that what a command makes of two states
can be compared. -/
def effect (i : Instr) (s : State) : State :=
  match i with
  | .init => { s with
      inited := true
      segOut := if s.inited = true then s.segOut else .level (Config.drawSeg s.draws)
      selOut := if s.inited = true then s.selOut else .level (Config.drawSel s.draws)
      draws := if s.inited = true then s.draws else s.draws + 1
      out := initOutput s }
  | .clear | .write _ => { s with slots := loadedSlots i, overlap := some s.slots.codes, out := answer s .none }
  | .printBegin => { s with
      slots := loadedSlots i, overlap := some s.slots.codes, prPos := 3#2, prState := .walk, out := answer s .none }
  | .printChar c => { walkStep c s with out := answer s .none }
  | .printEnd => { s with prState := .idle, out := answer s (.bool s.prState.success) }
  | .printRaw => { s with out := answer s (.bool false) }
  | .refresh => { s with
      selOut := .level (selectBit s.cursor)
      segOut := .level (s.readCode s.cursor).1
      cursor := s.cursor + 1#2
      draws := (s.readCode s.cursor).2.draws
      out := { answer s .none with events := [.selWrite (selectBit s.cursor), .segWrite (s.readCode s.cursor).1] } }
  | .encNibble x => { s with out := answer s (.bits8 (encodeNibble x)) }
  | .charValue c => { s with out := answer s (.bits4 (charToValue c)) }
  | .charCode c => { s with out := answer s (.bits8 (charToCode c)) }
  | .charValid c => { s with out := answer s (.bool (isValidChar (upper c))) }
  | .readSlot idx => { s with out := answer s (.slotView (packSlot (s.slots.get idx).hasDecimal (s.slots.get idx))) }

theorem HasEffect.eq_effect {i : Instr} {s t : State} (h : HasEffect i s t) : t = effect i s := by
  cases i with
  | init =>
    obtain ⟨-, ⟨hi, rfl⟩ | ⟨hi, rfl⟩⟩ := h <;> simp only [effect, hi, if_true, if_false, Bool.false_eq_true] <;> rfl
  | clear | write | printBegin | printChar | printEnd | printRaw | refresh => exact h.2
  | encNibble | charValue | charCode | charValid | readSlot => exact h

/-- Where its state check passes, a command has its effect. -/
theorem exec_of_passes {i : Instr} {s : State} (h : Running s) (hpass : Passes i s) : exec i s = .next (effect i s) := by
  obtain ⟨t, ht, hm | he⟩ := exec_effect h i
  · obtain ⟨reason, hf, -⟩ := hm.faults
    exact absurd hf (hpass reason)
  · rw [ht, he.eq_effect]

/-- A command that needs no print open passes its check while none is. -/
theorem passes_of_printClosed {i : Instr} {s : State} (hi : NeedsPrintClosed i) (hp : PrintClosed s) : Passes i s := by
  rintro reason (⟨-, rfl, -⟩ | ⟨-, -, hopen⟩ | ⟨-, hneeds, -⟩)
  · simp [NeedsPrintClosed] at hi
  · exact hopen hp
  · rcases hneeds with ⟨c, rfl⟩ | rfl <;> simp [NeedsPrintClosed] at hi

/-- A command that needs no print open has its effect while none is. -/
theorem exec_of_printClosed {i : Instr} {s : State} (h : Running s) (hi : NeedsPrintClosed i) (hp : PrintClosed s) :
    exec i s = .next (effect i s) :=
  exec_of_passes h (passes_of_printClosed hi hp)

/-- What a command can do: it marks the block in a case of R125's table, or its state check passes and it has its effect. -/
theorem exec_outcome {i : Instr} {s t : State} (h : exec i s = .next t) :
    Running s ∧ ((∃ reason, Faults i s reason ∧ t = marked s reason) ∨ (Passes i s ∧ t = effect i s)) := by
  obtain ⟨hrun, -⟩ := exec_cases h
  refine ⟨hrun, ?_⟩
  by_cases hf : ∃ reason, Faults i s reason
  · obtain ⟨reason, hf⟩ := hf
    exact .inl ⟨reason, hf, Host.Outcome.next.inj (h.symm.trans (exec_of_faults hrun hf))⟩
  · have hpass : Passes i s := not_exists.mp hf
    exact .inr ⟨hpass, Host.Outcome.next.inj (h.symm.trans (exec_of_passes hrun hpass))⟩

@[simp] theorem effect_faulted (i : Instr) (s : State) : (effect i s).faulted = s.faulted := by
  cases i with
  | printChar c => exact walkStep_faulted c s
  | _ => rfl

/-! ## Steps -/

/-- Whatever presenting a command, marking the block and a command's effect keep, every step keeps. -/
theorem step_preserves {P : State → Prop} (hpresent : ∀ s q rest, P s → P (s.present q rest))
    (hmark : ∀ s reason, P s → P (marked s reason)) (heffect : ∀ i s, P s → Passes i s → P (effect i s)) {s t : State}
    (hs : P s) (h : step s = .next t) : P t := by
  obtain ⟨-, ⟨-, rfl⟩ | ⟨q, rest, -, ⟨i, -, hexec⟩ | ⟨reason, -, hrefuse⟩⟩⟩ := step_cases h
  · exact hs
  · obtain ⟨-, ⟨reason, -, rfl⟩ | ⟨hpass, rfl⟩⟩ := exec_outcome hexec
    · exact hmark _ _ (hpresent s q rest hs)
    · exact heffect i _ (hpresent s q rest hs) hpass
  · cases hrefuse
    exact hmark _ (.refusedWord reason q.word) (hpresent s q rest hs)

end Sys2Proof.Machine

/-! PROOFS, 10_state.md section 5: the ports follow INIT (R36). -/

namespace Sys2Proof.Machine

open Sys2Proof.Safety

/-- The first INIT and a REFRESH after it drive both ports; every other command leaves the ports and `inited` alone. -/
theorem effect_portsFollowInit {i : Instr} {s : State} (hpass : Passes i s) (hs : PortsFollowInit s) :
    PortsFollowInit (effect i s) := by
  cases i with
  | init =>
    obtain ⟨-, hdriven⟩ := hs
    refine ⟨fun h => absurd h (by simp [effect]), fun _ => ?_⟩
    cases hi : s.inited
    · exact ⟨⟨_, by simp [effect, hi]; rfl⟩, _, by simp [effect, hi]; rfl⟩
    · simpa [effect, hi] using hdriven hi
  | refresh => exact ⟨fun h => absurd h (by simp [effect, hpass.inited]), fun _ => ⟨⟨_, rfl⟩, _, rfl⟩⟩
  | printChar c =>
    rw [effect, walkStep_frame]
    exact hs
  | _ => exact hs

/-- Settles O42: the set-up of the first INIT and a REFRESH after it drive both ports, and nothing else moves them. -/
theorem stepKeepsPortsFollowInit : Obligations.StepKeepsPortsFollowInit :=
  fun _ _ hs h =>
    step_preserves (P := PortsFollowInit) (fun _ _ _ h => h) (fun _ _ h => h) (fun _ _ hs hpass => effect_portsFollowInit hpass hs)
      hs h

/-- Settles O43: at construction `inited` is false and both ports are undriven. -/
theorem resetPortsFollowInit : Obligations.ResetPortsFollowInit :=
  ⟨fun _ => ⟨rfl, rfl⟩, fun h => absurd h (by decide)⟩

end Sys2Proof.Machine

/-! PROOFS, 10_state.md section 2 and 70_reset_and_hazards.md section 2: what the slots hold (R26, R101 to R105, R141). -/

namespace Sys2Proof.Machine

open Sys2Proof.Safety

/-! ## What a command writes into the slots -/

/-- A loaded slot is BLANK or shows a hex digit. -/
theorem get_loadedSlots (i : Instr) (k : SlotIndex) :
    (loadedSlots i).get k = blankSlot ∨ ∃ n, (loadedSlots i).get k = hexSlot n := by
  cases i with
  | write v => exact .inr ⟨_, Four.get_ofFn _ k⟩
  | _ => exact .inl (get_blankSlots k)

/-- A command's effect on the slots: a whole load, a character of a print, or none. -/
theorem effect_slots (i : Instr) (s : State) :
    (WritesAllSlots i ∧ (effect i s).slots = loadedSlots i) ∨
    (∃ c, i = .printChar c ∧ effect i s = { walkStep c s with out := answer s .none }) ∨
    (¬WritesAllSlots i ∧ (∀ c, i ≠ .printChar c) ∧ (effect i s).slots = s.slots ∧ (effect i s).overlap = s.overlap) := by
  cases i with
  | clear | printBegin | write => exact .inl ⟨by simp [WritesAllSlots], rfl⟩
  | printChar c => exact .inr (.inl ⟨c, rfl, rfl⟩)
  | _ => exact .inr (.inr ⟨by simp [WritesAllSlots], by simp, rfl, rfl⟩)

/-- What a '.' makes of a slot (R104). -/
def withPoint (x : Slot) : Slot := { x with code := x.code ||| dpBit }

/-- What a printed character makes of a slot (R105). -/
def withChar (u : Byte) (x : Slot) : Slot := { code := x.code ||| charToCode u, value := charToValue u, ch := u }

theorem dpStep_slots (s : State) :
    (dpStep s).slots = s.slots.set (s.prPos + 1#2) (withPoint (s.slots.get (s.prPos + 1#2))) := rfl

theorem writeStep_slots (u : Byte) (s : State) :
    (writeStep u s).slots = s.slots.set s.prPos (withChar u (s.slots.get s.prPos)) := by
  unfold writeStep
  split <;> rfl

/-! ## The slots ahead of an open walk (R101, R104) -/

/-- A slot of an open walk that is still to be written: BLANK, but for a point that a leading '.' may have set. -/
def Unwritten (x : Slot) : Prop := x = blankSlot ∨ x = { blankSlot with code := dpBit }

theorem unwritten_of_walkAheadBlank {s : State} (h : WalkAheadBlank s) (hw : s.prState = .walk) :
    Unwritten (s.slots.get s.prPos) := by
  obtain hblank | ⟨-, hpoint⟩ := h hw s.prPos (BitVec.le_refl _)
  · exact .inl hblank
  · exact .inr hpoint

/-- The slot a '.' writes is ahead of the walk only before the first character, where it is slot 0. -/
theorem slot_ahead_of_dot : ∀ pos : SlotIndex, pos + 1#2 ≤ pos → pos + 1#2 = 0#2 := by decide

/-- Where the walk has moved one slot leftward, what is ahead was ahead before and is not the slot just written. -/
theorem slot_ahead_of_left : ∀ pos i : SlotIndex, pos ≠ 0#2 → i ≤ pos - 1#2 → i ≤ pos ∧ i ≠ pos := by decide

theorem dpStep_walkAheadBlank {s : State} (h : WalkAheadBlank s) : WalkAheadBlank (dpStep s) := by
  intro hw i hi
  have hahead := h hw i hi
  by_cases hk : i = s.prPos + 1#2
  · have hzero : i = 0#2 := hk ▸ slot_ahead_of_dot s.prPos (hk ▸ hi)
    refine .inr ⟨hzero, ?_⟩
    rw [dpStep_slots, ← hk, Four.get_set_same]
    obtain hx | ⟨-, hx⟩ := hahead <;> rw [hx] <;> rfl
  · rwa [dpStep_slots, Four.get_set_ne _ _ _ _ hk]

theorem writeStep_walkAheadBlank (u : Byte) {s : State} (h : WalkAheadBlank s) (hw : s.prState = .walk) :
    WalkAheadBlank (writeStep u s) := by
  by_cases hz : s.prPos = 0#2
  · rw [writeStep_last u hz]
    exact fun hstopped => nomatch hstopped
  · rw [writeStep_left u hz]
    intro _ i hi
    obtain ⟨hle, hne⟩ := slot_ahead_of_left s.prPos i hz hi
    rw [Four.get_set_ne _ _ _ _ hne]
    exact h hw i hle

theorem walkStep_walkAheadBlank (c : Byte) {s : State} (h : WalkAheadBlank s) : WalkAheadBlank (walkStep c s) := by
  rcases walkStep_cases c s with e | ⟨-, -, e⟩ | ⟨-, -, e⟩ | ⟨hw, -, -, e⟩ <;> rw [e]
  · exact h
  · exact fun haborted => nomatch haborted
  · exact dpStep_walkAheadBlank h
  · exact writeStep_walkAheadBlank _ h hw

theorem walkAheadBlank_of_blankSlots {s : State} (h : s.slots = blankSlots) : WalkAheadBlank s :=
  fun _ i _ => .inl (h ▸ get_blankSlots i)

theorem walkAheadBlank_of_idle {s : State} (h : s.prState = .idle) : WalkAheadBlank s := by
  simp [WalkAheadBlank, h]

theorem effect_walkAheadBlank {i : Instr} {s : State} (hpass : Passes i s) (hs : WalkAheadBlank s) :
    WalkAheadBlank (effect i s) := by
  cases i with
  | clear | printBegin => exact walkAheadBlank_of_blankSlots rfl
  | write v => exact walkAheadBlank_of_idle (hpass.printClosed (.inr (.inr (.inl ⟨v, rfl⟩))))
  | printChar c => exact walkStep_walkAheadBlank c hs
  | printEnd => exact walkAheadBlank_of_idle rfl
  | _ => exact hs

/-! ## What every slot holds (R26, R141) -/

/-- A property of slots that whatever the block writes has: BLANK, a hex digit, a point added to a slot that has it, a character
printed on an unwritten slot. -/
structure HoldsOfWritten (Q : Slot → Prop) : Prop where
  blank : Q blankSlot
  hex : ∀ n, Q (hexSlot n)
  point : ∀ x, Q x → Q (withPoint x)
  char : ∀ u x, isValidChar u = true → u ≠ charDot → Unwritten x → Q (withChar u x)

/-- Every slot of a file after a write has what the others and the one written have. -/
theorem forall_get_set {Q : Slot → Prop} {f : SlotFile} (h : ∀ i, Q (f.get i)) (k : SlotIndex) {x : Slot} (hx : Q x)
    (i : SlotIndex) : Q ((f.set k x).get i) := by
  by_cases hi : i = k
  · rwa [hi, Four.get_set_same]
  · rw [Four.get_set_ne _ _ _ _ hi]
    exact h i

theorem walkStep_holdsOfWritten {Q : Slot → Prop} (hQ : HoldsOfWritten Q) (c : Byte) {s : State} (hahead : WalkAheadBlank s)
    (hs : ∀ k, Q (s.slots.get k)) : ∀ k, Q ((walkStep c s).slots.get k) := by
  rcases walkStep_cases c s with e | ⟨-, -, e⟩ | ⟨-, -, e⟩ | ⟨hw, hv, hd, e⟩ <;> rw [e]
  · exact hs
  · exact hs
  · exact forall_get_set hs _ (hQ.point _ (hs _))
  · rw [writeStep_slots]
    exact forall_get_set hs _ (hQ.char (upper c) _ hv hd (unwritten_of_walkAheadBlank hahead hw))

theorem forall_get_loadedSlots {Q : Slot → Prop} (hQ : HoldsOfWritten Q) (i : Instr) (k : SlotIndex) :
    Q ((loadedSlots i).get k) := by
  obtain hblank | ⟨n, hhex⟩ := get_loadedSlots i k
  · exact hblank ▸ hQ.blank
  · exact hhex ▸ hQ.hex n

/-- Every step keeps, of every slot, a property that whatever the block writes has. -/
theorem step_holdsOfWritten {Q : Slot → Prop} (hQ : HoldsOfWritten Q) {s t : State} (hs : ∀ k, Q (s.slots.get k))
    (hahead : WalkAheadBlank s) (h : step s = .next t) : (∀ k, Q (t.slots.get k)) ∧ WalkAheadBlank t := by
  refine step_preserves (P := fun s => (∀ k, Q (s.slots.get k)) ∧ WalkAheadBlank s) (fun _ _ _ h => h) (fun _ _ h => h) ?_
    ⟨hs, hahead⟩ h
  intro i s ⟨hs, hahead⟩ hpass
  refine ⟨?_, effect_walkAheadBlank hpass hahead⟩
  obtain ⟨-, hload⟩ | ⟨c, -, hchar⟩ | ⟨-, -, hsame, -⟩ := effect_slots i s
  · rw [hload]
    exact forall_get_loadedSlots hQ i
  · rw [hchar]
    exact walkStep_holdsOfWritten hQ c hahead hs
  · rwa [hsame]

/-! ## Reachable codes -/

theorem reachableCode_segTable (n : Nibble) : ReachableCode (Config.segTable n) := .inl ⟨n, .inl rfl⟩

/-- A point added to a reachable code gives a reachable code (R26). -/
theorem reachableCode_point {c : Byte} (h : ReachableCode c) : ReachableCode (c ||| dpBit) := by
  obtain ⟨n, rfl | rfl⟩ | rfl | rfl | rfl | rfl := h
  · exact .inl ⟨n, .inr rfl⟩
  · refine .inl ⟨n, .inr ?_⟩
    rw [BitVec.or_assoc, BitVec.or_self]
  · exact .inr (.inr (.inl rfl))
  · exact .inr (.inr (.inl rfl))
  · exact .inr (.inr (.inr (.inr rfl)))
  · exact .inr (.inr (.inr (.inr rfl)))

theorem reachableCode_charToCode (u : Byte) : ReachableCode (charToCode u) := by
  obtain hdash | hblank | ⟨n, hentry⟩ := charToCode_cases u
  · exact .inr (.inl hdash)
  · exact .inr (.inr (.inr (.inl hblank)))
  · exact hentry ▸ reachableCode_segTable n

/-- A character printed on an unwritten slot leaves its own pattern there, the point kept. -/
theorem withChar_code {x : Slot} (h : Unwritten x) (u : Byte) :
    (withChar u x).code = charToCode u ∨ (withChar u x).code = charToCode u ||| dpBit := by
  obtain rfl | rfl := h
  · exact .inl BitVec.zero_or
  · exact .inr (BitVec.or_comm ..)

theorem holdsOfWritten_reachableCode : HoldsOfWritten fun x => ReachableCode x.code where
  blank := .inr (.inr (.inr (.inl rfl)))
  hex n := by
    rw [hexSlot, encodeNibble_setWidth]
    exact reachableCode_segTable n
  point _ h := reachableCode_point h
  char u x _ _ hx := by
    obtain hcode | hcode := withChar_code hx u <;> rw [hcode]
    · exact reachableCode_charToCode u
    · exact reachableCode_point (reachableCode_charToCode u)

/-- Settles O44: whatever the block writes has a reachable code, a printed character because its slot was blank but for a point. -/
theorem stepKeepsCodesReachable : Obligations.StepKeepsCodesReachable :=
  fun _ _ hcodes hahead h => step_holdsOfWritten holdsOfWritten_reachableCode hcodes hahead h

/-! ## Coherent slots -/

theorem slotCoherent_point {x : Slot} (h : SlotCoherent x) : SlotCoherent (withPoint x) := by
  obtain ⟨hvalue, hch, hcode⟩ | ⟨hvalid, hdot, hvalue, hcode⟩ := h
  · refine .inl ⟨hvalue, hch, .inr ?_⟩
    obtain hcode | hcode := hcode <;> rw [withPoint, hcode] <;> rfl
  · refine .inr ⟨hvalid, hdot, hvalue, .inr ?_⟩
    obtain hcode | hcode := hcode <;> rw [withPoint, hcode]
    rw [BitVec.or_assoc, BitVec.or_self]

theorem holdsOfWritten_slotCoherent : HoldsOfWritten SlotCoherent where
  blank := .inl ⟨rfl, rfl, .inl rfl⟩
  hex n := by
    obtain ⟨-, -, hdot, hvalid⟩ := hexchar_is_digit n
    refine .inr ⟨hvalid, hdot, (charToValue_hexchar n).symm, .inl ?_⟩
    rw [hexSlot, encodeNibble_setWidth, charToCode_hexchar]
  point _ h := slotCoherent_point h
  char u _ hv hd hx := .inr ⟨hv, hd, rfl, withChar_code hx u⟩

/-- Settles O46: value, character and pattern of whatever the block writes agree but for the point. -/
theorem stepKeepsSlotsCoherent : Obligations.StepKeepsSlotsCoherent :=
  fun _ _ hslots hahead h => step_holdsOfWritten holdsOfWritten_slotCoherent hslots hahead h

end Sys2Proof.Machine

/-! PROOFS, 30_encoding.md: the decoder and the encoder undo each other, the opcode map, and PRINT's words (R64 to R77). -/

namespace Sys2Proof

open Sys2Proof.Machine

/-! ## Decode and encode (R77) -/

/-- Decoding the word of given fields reads the fields back. -/
theorem decode_toWord (f : Fields) : decode f.toWord = decodeFields f := by
  rw [decode, Fields.ofWord_toWord]

@[simp] theorem decodeFields_fields (i : Instr) : decodeFields i.fields = .command i := by
  simp [decodeFields, Instr.fields]

/-- R77: the word of a command decodes to it. -/
@[simp] theorem decode_encode (i : Instr) : decode (encode i) = .command i := by
  rw [encode, decode_toWord, decodeFields_fields]

/-- Settles O1: the fields of a command are read back from its word, and its own operand fits its format. -/
theorem decodeOfEncodeIsTheCommand : Obligations.DecodeOfEncodeIsTheCommand :=
  fun i _ => decode_encode i

/-- How many operand values a format admits (R65 to R68). -/
def Format.bound (f : Format) : Nat :=
  match f with
  | .z => 1
  | .i16 => 2 ^ 16
  | .s2 => 2 ^ 2
  | .c8 => 2 ^ 8

/-- The must-be-zero bits of a format, the operand area read as a number. -/
theorem operandOk_iff (f : Format) (x : BitVec 16) : f.operandOk x = true ↔ x.toNat < f.bound := by
  cases f with
  | i16 => exact iff_of_true rfl x.isLt
  | z | s2 | c8 =>
    simp only [Format.operandOk, Format.bound, beq_iff_eq, ← BitVec.toNat_inj, BitVec.extractLsb'_toNat, BitVec.toNat_ofNat,
      Nat.shiftRight_eq_div_pow]
    omega

/-- An operand of `k` bits is its low `k` bits widened. -/
theorem setWidth_low {x : BitVec 16} {k : Nat} (h : x.toNat < 2 ^ k) : (x.extractLsb' 0 k).setWidth 16 = x := by
  apply BitVec.eq_of_toNat_eq
  rw [BitVec.toNat_setWidth, BitVec.extractLsb'_toNat, Nat.shiftRight_zero, Nat.mod_eq_of_lt h, Nat.mod_eq_of_lt x.isLt]

@[simp] theorem opcode_command (o : Opcode) (x : BitVec 16) : (o.command x).opcode = o := by
  cases o <;> rfl

/-- An operand area that fits an opcode's format is the operand of the command it makes. -/
theorem operand_command {o : Opcode} {x : BitVec 16} (h : o.format.operandOk x = true) : (o.command x).operand = x := by
  have hlt := (operandOk_iff _ _).mp h
  cases o with
  | write | encNibble => rfl
  | init | clear | printBegin | printEnd | printRaw | refresh => exact (beq_iff_eq.mp h).symm
  | printChar | charValue | charCode | charValid | readSlot => exact setWidth_low hlt

/-- The fields the decoder accepts are the fields of the command it gives. -/
theorem fields_of_decodeFields {f : Fields} {i : Instr} (h : decodeFields f = .command i) : i.fields = f := by
  obtain ⟨op, rsv, operand⟩ := f
  unfold decodeFields at h
  split at h
  · cases h
  · next o ho =>
    split_ifs at h with hrsv hok
    obtain rfl := Decoded.command.inj h
    obtain rfl : rsv = 0#12 := not_not.mp hrsv
    simp only [Instr.fields, opcode_command, bits_of_opcodeOf ho, operand_command (Bool.of_not_eq_false hok)]

/-- Settles O2: the word has the fields of the command, and every command is well-formed. -/
theorem encodeOfDecodeIsTheWord : Obligations.EncodeOfDecodeIsTheWord := by
  intro w i h
  refine ⟨?_, Laws.WellFormed.of_parts i⟩
  rw [encode, fields_of_decodeFields h, Fields.toWord_ofWord]

/-! ## The opcode map (R70, R72) -/

/-- The fields of a word as numbers (R64). -/
theorem ofWord_eq_ofNat (w : Word) :
    Fields.ofWord w =
      { op := BitVec.ofNat 4 (w.toNat / 2 ^ 28)
        rsv := BitVec.ofNat 12 (w.toNat / 2 ^ 16 % 2 ^ 12)
        operand := BitVec.ofNat 16 (w.toNat % 2 ^ 16) } := by
  simp only [Fields.ofWord, Fields.mk.injEq]
  refine ⟨?_, ?_, ?_⟩ <;> apply BitVec.eq_of_toNat_eq <;> simp [Nat.shiftRight_eq_div_pow]

theorem decode_eq_decodeFields (w : Word) :
    decode w = decodeFields
      { op := BitVec.ofNat 4 (w.toNat / 2 ^ 28)
        rsv := BitVec.ofNat 12 (w.toNat / 2 ^ 16 % 2 ^ 12)
        operand := BitVec.ofNat 16 (w.toNat % 2 ^ 16) } := by
  rw [decode, ofWord_eq_ofNat]

/-- The reserved opcodes are refused first (R71). -/
theorem decode_reservedOpcode {w : Word} (h : opcodeOf (BitVec.ofNat 4 (w.toNat / 2 ^ 28)) = none) :
    decode w = .refuse .reservedOpcode := by
  simp only [decode_eq_decodeFields, decodeFields, h]

/-- Every other opcode is in the map. -/
theorem exists_opcode {n : Nat} (hn : n < 16) (h : ¬(n = 0 ∨ n = 14 ∨ n = 15)) : ∃ o : Opcode, n = o.bits.toNat := by
  have hmap : ∀ n < 16, ¬(n = 0 ∨ n = 14 ∨ n = 15) → (opcodeOf (BitVec.ofNat 4 n)).isSome = true := by decide
  obtain ⟨o, ho⟩ := Option.isSome_iff_exists.mp (hmap n hn h)
  exact ⟨o, by rw [bits_of_opcodeOf ho, BitVec.toNat_ofNat, Nat.mod_eq_of_lt hn]⟩

/-- The decoder on a word whose opcode is in the map (R72): bits [27:16], then the operand against its format. -/
theorem decode_opcode {w : Word} {o : Opcode} (h : w.toNat / 2 ^ 28 = o.bits.toNat) :
    decode w =
      if w.toNat / 2 ^ 16 % 2 ^ 12 ≠ 0 then .refuse .reservedBitsNonZero
      else if w.toNat % 2 ^ 16 < o.format.bound then .command (o.command (BitVec.ofNat 16 (w.toNat % 2 ^ 16)))
      else .refuse .reservedBitsNonZero := by
  have hrsv : BitVec.ofNat 12 (w.toNat / 2 ^ 16 % 2 ^ 12) = 0#12 ↔ w.toNat / 2 ^ 16 % 2 ^ 12 = 0 := by
    rw [← BitVec.toNat_inj, BitVec.toNat_ofNat, Nat.mod_mod, BitVec.toNat_ofNat, Nat.zero_mod]
  have hok := operandOk_iff o.format (BitVec.ofNat 16 (w.toNat % 2 ^ 16))
  rw [BitVec.toNat_ofNat, Nat.mod_mod] at hok
  rw [decode_eq_decodeFields, h, BitVec.ofNat_toNat, BitVec.setWidth_eq]
  simp only [decodeFields, opcodeOf_bits, ne_eq, hrsv, ← hok]
  cases o.format.operandOk (BitVec.ofNat 16 (w.toNat % 2 ^ 16)) <;> rfl

theorem decode_accepts {w : Word} (o : Opcode) (h : w.toNat / 2 ^ 28 = o.bits.toNat) (hrsv : w.toNat / 2 ^ 16 % 2 ^ 12 = 0)
    (hx : w.toNat % 2 ^ 16 < o.format.bound) : decode w = .command (o.command (BitVec.ofNat 16 (w.toNat % 2 ^ 16))) := by
  rw [decode_opcode h, if_neg (not_not_intro hrsv), if_pos hx]

theorem decode_refuses {w : Word} (o : Opcode) (h : w.toNat / 2 ^ 28 = o.bits.toNat) (hrsv : w.toNat / 2 ^ 16 % 2 ^ 12 = 0)
    (hx : o.format.bound ≤ w.toNat % 2 ^ 16) : decode w = .refuse .reservedBitsNonZero := by
  rw [decode_opcode h, if_neg (not_not_intro hrsv), if_neg (Nat.not_lt.mpr hx)]

/-- The low bits of an operand area, from its number. -/
theorem low_ofNat {k : Nat} (hk : k ≤ 16) (n : Nat) : (BitVec.ofNat 16 n).extractLsb' 0 k = BitVec.ofNat k n := by
  apply BitVec.eq_of_toNat_eq
  rw [BitVec.extractLsb'_toNat, BitVec.toNat_ofNat, BitVec.toNat_ofNat, Nat.shiftRight_zero,
    Nat.mod_mod_of_dvd _ (Nat.pow_dvd_pow 2 hk)]

/-- Settles O3: each row of the map is `decode_accepts` or `decode_refuses` of its opcode, with its format's bound. -/
theorem decoderFollowsTheOpcodeMap : Obligations.DecoderFollowsTheOpcodeMap := by
  intro w
  have hop : w.toNat / 2 ^ 28 < 16 := by have := w.isLt; omega
  have byteOf (n : Nat) := low_ofNat (k := 8) (by decide) n
  have slotOf (n : Nat) := low_ofNat (k := 2) (by decide) n
  refine ⟨fun h => decode_reservedOpcode ?_, fun h hrsv => ?_, fun _ hrsv => ⟨fun h hx => ?_, fun h hx => ?_,
    fun h => decode_refuses .readSlot h hrsv,
    fun h hx => decode_accepts .init h hrsv (Nat.lt_one_iff.mpr hx),
    fun h hx => decode_accepts .clear h hrsv (Nat.lt_one_iff.mpr hx),
    fun h => decode_accepts .write h hrsv (Nat.mod_lt _ (by decide)),
    fun h hx => decode_accepts .printBegin h hrsv (Nat.lt_one_iff.mpr hx),
    fun h hx => byteOf _ ▸ decode_accepts .printChar h hrsv hx,
    fun h hx => decode_accepts .printEnd h hrsv (Nat.lt_one_iff.mpr hx),
    fun h hx => decode_accepts .printRaw h hrsv (Nat.lt_one_iff.mpr hx),
    fun h hx => decode_accepts .refresh h hrsv (Nat.lt_one_iff.mpr hx),
    fun h => decode_accepts .encNibble h hrsv (Nat.mod_lt _ (by decide)),
    fun h hx => byteOf _ ▸ decode_accepts .charValue h hrsv hx,
    fun h hx => byteOf _ ▸ decode_accepts .charCode h hrsv hx,
    fun h hx => byteOf _ ▸ decode_accepts .charValid h hrsv hx,
    fun h hx => slotOf _ ▸ decode_accepts .readSlot h hrsv hx⟩⟩
  · rcases h with h | h | h <;> rw [h] <;> rfl
  · obtain ⟨o, ho⟩ := exists_opcode hop h
    rw [decode_opcode ho, if_pos hrsv]
  · have hx : 1 ≤ w.toNat % 2 ^ 16 := Nat.one_le_iff_ne_zero.mpr hx
    rcases h with h | h | h | h | h | h
    · exact decode_refuses .init h hrsv hx
    · exact decode_refuses .clear h hrsv hx
    · exact decode_refuses .printBegin h hrsv hx
    · exact decode_refuses .printEnd h hrsv hx
    · exact decode_refuses .printRaw h hrsv hx
    · exact decode_refuses .refresh h hrsv hx
  · rcases h with h | h | h | h
    · exact decode_refuses .printChar h hrsv hx
    · exact decode_refuses .charValue h hrsv hx
    · exact decode_refuses .charCode h hrsv hx
    · exact decode_refuses .charValid h hrsv hx

/-- Settles O4: each accepted word is the canonical word of its command; the two others are refused at their opcode and their
must-be-zero bits. -/
theorem sampleWordsDecode : Obligations.SampleWordsDecode :=
  ⟨decode_encode (.write 0xABCD#16), decode_encode (.printChar 0x33#8), decode_encode (.readSlot 2#2), decode_encode .refresh,
    by decide, by decide⟩

/-! ## The assembler and PRINT (R74, R75) -/

/-- Settles O6: the assembler runs on the three fixed lines. -/
theorem assemblerExamples : Obligations.AssemblerExamples := by
  refine ⟨?_, ?_, ?_⟩ <;> decide

/-- PRINT's words decode to PRINT's commands. -/
theorem decode_printWords (text : List Byte) : (printWords text).map decode = (printCommands text).map .command := by
  rw [printWords, List.map_map]
  exact List.map_congr_left fun i _ => decode_encode i

@[simp] theorem length_printCommands (text : List Byte) : (printCommands text).length = text.length + 2 := by
  simp [printCommands]

/-- PRINT's command that prints a character: the last character first. -/
theorem printCommands_char (text : List Byte) (j : Nat) (h : j < text.length) :
    (printCommands text)[text.length - j]? = some (.printChar text[j]) := by
  have hpos : text.length - j = text.length - 1 - j + 1 := by omega
  rw [printCommands, hpos, List.getElem?_cons_succ, List.getElem?_append_left (by simp; omega), List.getElem?_map,
    List.getElem?_reverse (by omega), show text.length - 1 - (text.length - 1 - j) = j by omega, List.getElem?_eq_getElem h]
  rfl

/-- Settles O5: PRINT's words decode to PRINT's commands, in which the characters stand last first. -/
theorem printExpandsLastCharacterFirst : Obligations.PrintExpandsLastCharacterFirst := by
  refine fun text => ⟨by simp [printWords], rfl, ?_, fun j h => ?_⟩
  · have hlast : (printCommands text).getLast? = some .printEnd := by
      rw [printCommands, ← List.cons_append, List.getLast?_concat]
    rw [printWords, List.getLast?_map, hlast]
    rfl
  · rw [← List.getElem?_map, decode_printWords, List.getElem?_map, printCommands_char text j h]
    rfl

end Sys2Proof

/-! PROOFS, 20_memory.md section 4 and 60_exceptions.md section 1: the step, and the closed list of faults (R54, R123, R125). -/

namespace Sys2Proof.Machine

open Sys2Proof.Safety

/-- The state in which a presented command is run, with the overlap window in one expression (R52). -/
theorem present_eq (s : State) (q : Request) (rest : List Request) :
    s.present q rest = { s with
      inbox := rest
      issuer := some q.agent
      overlap := if q = .tick true then s.overlap else none } := by
  rw [← State.present_overlap s q rest]
  rfl

/-- A presented word that spells a command is run. -/
theorem step_command {s : State} {q : Request} {rest : List Request} {i : Instr} (h : Running s) (hin : s.inbox = q :: rest)
    (hd : decode q.word = .command i) : step s = exec i (s.present q rest) := by
  rw [step_presented h hin, hd]

/-- A presented word that spells none marks the block (R72). -/
theorem step_refuse {s : State} {q : Request} {rest : List Request} {reason : DecodeRefusal} (h : Running s)
    (hin : s.inbox = q :: rest) (hd : decode q.word = .refuse reason) :
    step s = .next (marked (s.present q rest) (.refusedWord reason q.word)) := by
  rw [step_presented h hin, hd]
  rfl

/-- With no command presented the block waits (R137, R139). -/
theorem step_idle {s : State} (h : Running s) (hin : s.inbox = []) : step s = .next s := by
  simp only [step, h, State.nextCommand_nil hin]

theorem step_faulted {s : State} {reason : FaultReason} (h : s.faulted = some reason) : step s = .fault (.blockFaulted reason) := by
  simp only [step, h]

/-- Settles O7: the head of the order is taken and its command run. -/
theorem stepRunsTheDecodedCommand : Obligations.StepRunsTheDecodedCommand := by
  intro s q rest i h hin hd
  rw [step_command h hin hd, present_eq]

/-- Settles O8: a refusal is a mark in the state in which the word is presented. -/
theorem refusedWordOnlyMarksTheBlock : Obligations.RefusedWordOnlyMarksTheBlock :=
  fun _ _ _ _ h hin hd => step_refuse h hin hd

/-- Settles O9: neither a step nor a command gets past the check for the mark. -/
theorem faultedBlockTakesNoStep : Obligations.FaultedBlockTakesNoStep :=
  fun _ _ h => ⟨step_faulted h, exec_faulted h⟩

/-- Settles O10: nothing is presented after reset. -/
theorem blockWaitsForACommand : Obligations.BlockWaitsForACommand :=
  ⟨fun _ => step_idle, step_idle rfl rfl⟩

/-! ## The closed list (R125) -/

/-- Commands that the table has no case of, whatever their operand (R89, R123). -/
theorem passes_of_valid {i : Instr} {s : State}
    (h : IsLookup i ∨ (∃ idx, i = .readSlot idx) ∨ ((∃ v, i = .write v) ∧ s.prState = .idle) ∨
      ((∃ c, i = .printChar c) ∧ s.prState ≠ .idle)) : Passes i s := by
  intro reason
  rcases h with hlookup | ⟨idx, rfl⟩ | ⟨⟨v, rfl⟩, hp⟩ | ⟨⟨c, rfl⟩, hp⟩
  · rcases hlookup with ⟨x, rfl⟩ | ⟨c, rfl⟩ | ⟨c, rfl⟩ | ⟨c, rfl⟩ <;> simp [Faults, NeedsPrintClosed, NeedsPrintOpen]
  · simp [Faults, NeedsPrintClosed, NeedsPrintOpen]
  · simp [Faults, NeedsPrintOpen, hp]
  · simp [Faults, NeedsPrintClosed, hp]

/-- Settles O11: a command the table has no case of ends unmarked, and a marked end is a next state too. -/
theorem everyCommandEndsInANextState : Obligations.EveryCommandEndsInANextState := by
  have hexec (s : State) (i : Instr) (h : Running s) : ∃ t, exec i s = .next t :=
    (exec_effect h i).imp fun _ ht => ht.1
  refine ⟨fun s i h hi => ?_, hexec, fun s h => ?_⟩
  · exact ⟨_, exec_of_passes h (passes_of_valid hi), (effect_faulted i s).trans h⟩
  · rcases hin : s.inbox with _ | ⟨q, rest⟩
    · exact ⟨s, step_idle h hin⟩
    · cases hd : decode q.word with
      | command i => exact step_command h hin hd ▸ hexec (s.present q rest) i h
      | refuse reason => exact ⟨_, step_refuse h hin hd⟩

/-- A command marks the block exactly in the cases of the table, and then leaves the state the reason marks. -/
theorem exec_marks_iff {i : Instr} {s t : State} {reason : FaultReason} (h : Running s) :
    exec i s = .next t ∧ t.faulted = some reason ↔ Faults i s reason ∧ t = marked s reason := by
  constructor
  · rintro ⟨ht, hmark⟩
    obtain ⟨-, ⟨r, hr, rfl⟩ | ⟨-, rfl⟩⟩ := exec_outcome ht
    · obtain rfl : r = reason := Option.some.inj hmark
      exact ⟨hr, rfl⟩
    · simp [h] at hmark
  · rintro ⟨hf, rfl⟩
    exact ⟨exec_of_faults h hf, rfl⟩

/-- The table of R125 for the step of a presented command. -/
def StepFaults (s : State) (q : Request) (reason : FaultReason) : Prop :=
  (reason = .notInitialised ∧ decode q.word = .command .refresh ∧ s.inited = false) ∨
  (∃ i, reason = .printOpen i ∧ decode q.word = .command i ∧ NeedsPrintClosed i ∧ s.prState ≠ .idle) ∨
  (∃ i, reason = .printNotOpen i ∧ decode q.word = .command i ∧ NeedsPrintOpen i ∧ s.prState = .idle) ∨
  (∃ r, reason = .refusedWord r q.word ∧ decode q.word = .refuse r)

theorem stepFaults_of_command {s : State} {q : Request} {i : Instr} (hd : decode q.word = .command i) (reason : FaultReason) :
    StepFaults s q reason ↔ Faults i s reason := by
  simp [StepFaults, Faults, hd]

theorem stepFaults_of_refuse {s : State} {q : Request} {r : DecodeRefusal} (hd : decode q.word = .refuse r)
    (reason : FaultReason) : StepFaults s q reason ↔ reason = .refusedWord r q.word := by
  simp [StepFaults, hd]

/-- The step of a presented command marks the block exactly in the cases of the table, and then leaves the state the reason
marks. -/
theorem step_marks_iff {s t : State} {q : Request} {rest : List Request} {reason : FaultReason} (h : Running s)
    (hin : s.inbox = q :: rest) :
    step s = .next t ∧ t.faulted = some reason ↔ StepFaults s q reason ∧ t = marked (s.present q rest) reason := by
  cases hd : decode q.word with
  | command i =>
    rw [step_command h hin hd, stepFaults_of_command hd]
    exact exec_marks_iff (s := s.present q rest) h
  | refuse r =>
    rw [step_refuse h hin hd, stepFaults_of_refuse hd]
    constructor
    · rintro ⟨ht, hmark⟩
      cases ht
      exact ⟨(Option.some.inj hmark).symm, by rw [Option.some.inj hmark]⟩
    · rintro ⟨rfl, rfl⟩
      exact ⟨rfl, rfl⟩

/-- Settles O12: a step marks the block in the table's cases only, and by nothing but the mark. -/
theorem faultsAreTheClosedList : Obligations.FaultsAreTheClosedList := by
  intro s q rest reason h hin
  refine ⟨⟨fun ⟨t, ht⟩ => ((step_marks_iff h hin).mp ht).1, fun hf => ⟨_, (step_marks_iff h hin).mpr ⟨hf, rfl⟩⟩⟩,
    fun t ht hmark => ?_⟩
  rw [← present_eq]
  exact ((step_marks_iff h hin).mp ⟨ht, hmark⟩).2

/-- Settles O32: the first two clauses are rows of the table, and the third is a command that meets none of its rows. -/
theorem printSequencingFaults : Obligations.PrintSequencingFaults := by
  refine fun s i h => ⟨exec_faults_printOpen h, exec_faults_printNotOpen h, fun hclosed hopen hr => ?_⟩
  have hpass : Passes i s := by
    rintro reason (⟨-, hi, -⟩ | ⟨-, hi, hp⟩ | ⟨-, hi, hp⟩)
    · exact hr hi
    · exact hp (hclosed hi)
    · exact hopen hi hp
  exact ⟨_, exec_of_passes h hpass, (effect_faulted i s).trans h⟩

end Sys2Proof.Machine

/-! PROOFS, 40_rom_lookup.md sections 3 and 4: CHAR_CODE and CHAR_VALID (R83 to R86). -/

namespace Sys2Proof.Machine

open Sys2Proof.Safety

theorem encode_charCode (c : Byte) : encode (.charCode c) = 0xB0000000#32 ||| c.setWidth 32 := by
  simp [encode_eq_or, Instr.opcode, Opcode.bits, Instr.operand]

theorem encode_charValid (c : Byte) : encode (.charValid c) = 0xC0000000#32 ||| c.setWidth 32 := by
  simp [encode_eq_or, Instr.opcode, Opcode.bits, Instr.operand]

/-- No pattern of a character has the decimal point. -/
theorem charToCode_bit7 (c : Byte) : (charToCode c).getLsbD 7 = false := by
  obtain h | h | ⟨n, h⟩ := charToCode_cases c <;> rw [h]
  · rfl
  · rfl
  · exact segTable_bit7 n

/-- R83 with the bytes as numbers: dash, blank, or the table entry of the character's value. -/
theorem charToCode_eq (c : Byte) :
    charToCode c =
      if c.toNat = 0x2D then 0x40#8
      else if c.toNat = 0x20 then 0x00#8
      else Config.segTable (BitVec.ofNat 4 (charToValue c).toNat) := by
  simp only [charToCode, encodeNibble_setWidth, BitVec.ofNat_toNat, BitVec.setWidth_eq, ← BitVec.toNat_inj (x := c), charDash,
    charSpace, BitVec.toNat_ofNat, Nat.reduceMod, Nat.reducePow]

/-- Settles O15: the character's value decides the table entry, but for the dash and the blank. -/
theorem charCodeMapsCharacters : Obligations.CharCodeMapsCharacters := by
  refine fun s c h => ⟨encode_charCode c, charToCode c, exec_charCode h c, charToCode_bit7 c, ?_⟩
  rw [charToCode_eq, toNat_charToValue]
  split_ifs <;> rfl

/-- Settles O16: CHAR_VALID answers whether the normalised character is accepted. -/
theorem charValidAcceptsExactly25Bytes : Obligations.CharValidAcceptsExactly25Bytes :=
  fun _ c h => ⟨encode_charValid c, isValidChar (upper c), exec_charValid h c, isValidChar_upper_iff c⟩

end Sys2Proof.Machine

/-! PROOFS, 41_digit_load.md sections 2 to 4, 6 and 7: INIT, the whole loads, PRINT_RAW and READ_SLOT (R94 to R101, R111, R112). -/

namespace Sys2Proof.Machine

open Sys2Proof.Safety

/-! ## INIT, CLEAR, PRINT_RAW and PRINT_BEGIN -/

/-- Settles O18: the first INIT draws both levels, a later one none. -/
theorem initConfiguresBothPorts : Obligations.InitConfiguresBothPorts := by
  have hneeds : NeedsPrintClosed .init := .inl rfl
  refine ⟨by decide, fun s h => ⟨fun hp hi => ?_, fun hp hi => ?_, exec_faults_printOpen h hneeds⟩⟩
  · refine ⟨Config.drawSeg s.draws, Config.drawSel s.draws, s.draws + 1, ?_⟩
    rw [exec_of_printClosed h hneeds hp]
    simp [effect, initOutput, hi]
  · rw [exec_of_printClosed h hneeds hp]
    simp [effect, initOutput, hi]

theorem blankSlot_hasDecimal : blankSlot.hasDecimal = false := rfl

/-- Settles O19: four blank slots, and a blank slot has no decimal point. -/
theorem clearBlanksEverySlot : Obligations.ClearBlanksEverySlot := by
  have hneeds : NeedsPrintClosed .clear := .inr (.inl rfl)
  have hblank (i : SlotIndex) : (blankSlots.get i).hasDecimal = false := by rw [get_blankSlots, blankSlot_hasDecimal]
  exact ⟨by decide, fun _ h => ⟨fun hp => ⟨_, exec_of_printClosed h hneeds hp, rfl, fun i => ⟨get_blankSlots i, hblank i⟩⟩,
    exec_faults_printOpen h hneeds⟩⟩

/-- Settles O23: where its check passes the stub's answer is fixed. -/
theorem printRawAnswersFalse : Obligations.PrintRawAnswersFalse := by
  have hneeds : NeedsPrintClosed .printRaw := .inr (.inr (.inr (.inr rfl)))
  exact ⟨by decide, fun _ h => ⟨exec_of_printClosed h hneeds, exec_faults_printOpen h hneeds⟩⟩

/-- Settles O24: PRINT_BEGIN blanks the slots as CLEAR does and sets the walk's state and position. -/
theorem printBeginOpensTheWalk : Obligations.PrintBeginOpensTheWalk := by
  have hneeds : NeedsPrintClosed .printBegin := .inr (.inr (.inr (.inl rfl)))
  exact ⟨by decide, fun _ h =>
    ⟨fun hp => ⟨_, exec_of_printClosed h hneeds hp, rfl, get_blankSlots⟩, exec_faults_printOpen h hneeds⟩⟩

/-! ## WRITE -/

theorem needsPrintClosed_write (v : BitVec 16) : NeedsPrintClosed (.write v) := .inr (.inr (.inl ⟨v, rfl⟩))

theorem encode_write (v : BitVec 16) : encode (.write v) = 0x30000000#32 ||| v.setWidth 32 := by
  simp [encode_eq_or, Instr.opcode, Opcode.bits, Instr.operand]

/-- The nibble WRITE puts into slot `i` as a number (R98). -/
theorem toNat_writeNibble (v : BitVec 16) (i : SlotIndex) : (writeNibble v i).toNat = v.toNat / 2 ^ (12 - 4 * i.toNat) % 16 := by
  rw [writeNibble, BitVec.extractLsb'_toNat, Nat.shiftRight_eq_div_pow]

/-- The hex digit of a nibble as a number (R16). -/
theorem toNat_hexchar (n : Nibble) :
    (hexchar n).toNat = if n.toNat ≤ 9 then 0x30 + n.toNat else 0x41 + (n.toNat - 10) := by
  revert n
  decide

theorem hexSlot_code (n : Nibble) : (hexSlot n).code = Config.segTable n := encodeNibble_setWidth n

theorem hexSlot_hasDecimal (n : Nibble) : (hexSlot n).hasDecimal = false := by
  rw [Slot.hasDecimal, hexSlot_code, segTable_bit7]

/-- Settles O20: slot `i` holds the hex digit of nibble `i`. -/
theorem writeShowsFourHexDigits : Obligations.WriteShowsFourHexDigits := by
  have hneeds := needsPrintClosed_write
  refine fun s v h => ⟨encode_write v, fun hp => ⟨_, exec_of_printClosed h (hneeds v) hp, rfl, fun i => ?_⟩,
    exec_faults_printOpen h (hneeds v)⟩
  rw [effect, loadedSlots, Four.get_ofFn, ← toNat_writeNibble]
  refine ⟨?_, hexSlot_hasDecimal _, rfl, toNat_hexchar _⟩
  rw [hexSlot_code, BitVec.ofNat_toNat, BitVec.setWidth_eq]

/-- The four nibbles, most significant first, are the operand (R99). -/
theorem append_writeNibble (v : BitVec 16) :
    writeNibble v 0#2 ++ (writeNibble v 1#2 ++ (writeNibble v 2#2 ++ writeNibble v 3#2)) = v := by
  apply BitVec.eq_of_getLsbD_eq
  intro j hj
  simp only [BitVec.getLsbD_append, writeNibble, BitVec.getLsbD_extractLsb']
  split_ifs with h2 h1 h0
  · simp [h0]
  · simp [show j - 4 < 4 by omega, show 4 + (j - 4) = j by omega]
  · simp [show j - 8 < 4 by omega, show 8 + (j - 8) = j by omega]
  · simp [show j - 12 < 4 by omega, show 12 + (j - 12) = j by omega]

/-- Settles O21: the values of the slots are the nibbles of the operand. -/
theorem writeRoundTrip : Obligations.WriteRoundTrip :=
  fun _ v h hp => ⟨_, exec_of_printClosed h (needsPrintClosed_write v) hp, append_writeNibble v⟩

/-! ## READ_SLOT -/

theorem encode_readSlot (idx : SlotIndex) : encode (.readSlot idx) = 0xD0000000#32 ||| idx.setWidth 32 := by
  simp [encode_eq_or, Instr.opcode, Opcode.bits, Instr.operand]

/-- The fields of the packed slot view (R112). -/
theorem packSlot_fields (d : Bool) (x : Slot) :
    (packSlot d x).extractLsb' 0 8 = x.code ∧ (packSlot d x).extractLsb' 8 4 = x.value ∧
    (packSlot d x).extractLsb' 12 8 = x.ch ∧ (packSlot d x).getLsbD 20 = d := by
  refine ⟨?_, ?_, ?_, ?_⟩
  · apply BitVec.eq_of_getLsbD_eq
    intro j hj
    simp [getLsbD_packSlot, hj]
  · apply BitVec.eq_of_getLsbD_eq
    intro j hj
    simp [getLsbD_packSlot, hj, show 8 + j < 12 by omega]
  · apply BitVec.eq_of_getLsbD_eq
    intro j hj
    simp [getLsbD_packSlot, hj, show ¬12 + j < 8 by omega, show 12 + j < 20 by omega]
  · rw [getLsbD_packSlot]
    cases d <;> rfl

/-- Settles O22: the packed view of the slot, its point bit 7 of the code. -/
theorem readSlotRespondsTheSlotView : Obligations.ReadSlotRespondsTheSlotView :=
  fun s idx h => ⟨encode_readSlot idx, _, exec_of_passes h (passes_of_valid (.inr (.inl ⟨idx, rfl⟩))),
    packSlot_fields (s.slots.get idx).hasDecimal (s.slots.get idx)⟩

/-! ## The whole loads (R140, R141) -/

theorem needsPrintClosed_of_writesAllSlots {i : Instr} (h : WritesAllSlots i) : NeedsPrintClosed i := by
  rcases h with rfl | ⟨v, rfl⟩ | rfl <;> simp [NeedsPrintClosed]

/-- The effect of a whole load on what is not the print's own state: its slots, and the codes before them in the overlap window. -/
theorem effect_load {i : Instr} (h : WritesAllSlots i) (s : State) :
    effect i s = { s with
      slots := loadedSlots i
      overlap := some s.slots.codes
      prState := (effect i s).prState
      prPos := (effect i s).prPos
      out := answer s .none } := by
  rcases h with rfl | ⟨v, rfl⟩ | rfl <;> rfl

/-- Settles O45: a loaded slot's code is reachable, and a walk the load opens has blank slots ahead of it. -/
theorem loadMakesCodesReachable : Obligations.LoadMakesCodesReachable := by
  intro s i h hp hi
  have hpass := passes_of_printClosed (needsPrintClosed_of_writesAllSlots hi) hp
  refine ⟨_, exec_of_passes h hpass, ?_, effect_walkAheadBlank hpass (walkAheadBlank_of_idle hp)⟩
  rw [effect_load hi]
  exact forall_get_loadedSlots holdsOfWritten_reachableCode i

end Sys2Proof.Machine

/-! PROOFS, 42_refresh_mux.md, 20_memory.md sections 3 and 4, and 70_reset_and_hazards.md section 3: what REFRESH shows. -/

namespace Sys2Proof.Machine

open Sys2Proof.Safety

/-! ## One REFRESH -/

/-- REFRESH after INIT has its effect, whether it overlaps a whole load or not (R113). -/
theorem exec_refresh {s : State} (h : Running s) (hi : s.inited = true) : exec .refresh s = .next (effect .refresh s) :=
  execRefresh_inited h hi

/-- The select value as a power of two (R115). -/
theorem selectBit_eq (k : SlotIndex) : selectBit k = BitVec.ofNat 4 (2 ^ (3 - k.toNat)) := by
  revert k
  decide

/-- In an overlap the code read is the old or the new one (R52). -/
theorem readCode_overlap {s : State} {old : Four Byte} (h : s.overlap = some old) (k : SlotIndex) :
    (s.readCode k).1 = (s.slots.get k).code ∨ (s.readCode k).1 = old.get k := by
  obtain ⟨hnone, -⟩ | ⟨o, ho, -, hcode⟩ := s.readCode_cases k
  · simp [h] at hnone
  · obtain rfl : o = old := Option.some.inj (ho.symm.trans h)
    exact hcode.symm

/-- Settles O33: the code is the one `readCode` gives, and the cursor's sum wraps at 4. -/
theorem refreshShowsTheSlotUnderTheCursor : Obligations.RefreshShowsTheSlotUnderTheCursor := by
  refine ⟨by decide, fun s h => ⟨fun hi => ?_, exec_faults_notInitialised h⟩⟩
  refine ⟨(s.readCode s.cursor).1, s.cursor + 1#2, (s.readCode s.cursor).2.draws, ?_, BitVec.toNat_add .., fun hq => ?_,
    fun _ hold => readCode_overlap hold _⟩
  · rw [← selectBit_eq]
    exact exec_refresh h hi
  · rw [State.readCode_quiet hq]
    exact ⟨rfl, rfl⟩

/-- Settles O36: the bit of the slot under the cursor and no other. -/
theorem refreshAssertsExactlyOneSelectLine : Obligations.RefreshAssertsExactlyOneSelectLine :=
  fun s h hi => ⟨_, _, _, exec_refresh h hi, rfl, rfl, selectBit_bits s.cursor⟩

/-- Settles O37: the select write comes first. -/
theorem selectChangesBeforeTheSegments : Obligations.SelectChangesBeforeTheSegments :=
  fun _ h hi => ⟨_, exec_refresh h hi, portLevels_sel_seg ..⟩

/-! ## REFRESH after REFRESH -/

/-- The state after a REFRESH that overlaps nothing. -/
def afterRefresh (s : State) : State :=
  { s with
    selOut := .level (selectBit s.cursor)
    segOut := .level (s.slots.get s.cursor).code
    cursor := s.cursor + 1#2
    out := { answer s .none with
      events := [.selWrite (selectBit s.cursor), .segWrite (s.slots.get s.cursor).code] } }

theorem exec_refresh_afterRefresh {s : State} (h : Running s) (hi : s.inited = true) (hq : s.overlap = none) :
    exec .refresh s = .next (afterRefresh s) :=
  exec_refresh_quiet h hi hq

/-- Settles O35: each REFRESH shows the slot one further on, and 4 is 0 mod 4. -/
theorem fourRefreshesShowEachSlotOnce : Obligations.FourRefreshesShowEachSlotOnce := by
  intro s h hi hq
  have hadd (k a b : SlotIndex) : k + a + b = k + (a + b) := BitVec.add_assoc ..
  refine ⟨afterRefresh s, afterRefresh (afterRefresh s), afterRefresh (afterRefresh (afterRefresh s)),
    afterRefresh (afterRefresh (afterRefresh (afterRefresh s))), exec_refresh_afterRefresh h hi hq,
    exec_refresh_afterRefresh h hi hq, exec_refresh_afterRefresh h hi hq, exec_refresh_afterRefresh h hi hq,
    rfl, rfl, ?_, ?_, ?_, rfl⟩
  · simp [afterRefresh, hadd]
  · simp [afterRefresh, hadd]
  · simp [afterRefresh, hadd]

/-- N + 1 REFRESH in a run: the last is a REFRESH over the same slots, N slots further on. -/
theorem runCommands_replicate_refresh (n : Nat) {s : State} (h : Running s) (hi : s.inited = true) :
    ∃ u, runCommands (List.replicate (n + 1) .refresh) s = .next (afterRefresh u) ∧ u.slots = s.slots ∧
      u.cursor.toNat = (s.cursor.toNat + n) % 4 := by
  induction n generalizing s with
  | zero => exact ⟨{ s with overlap := none }, runCommands_refresh h hi [], rfl, (Nat.mod_eq_of_lt s.cursor.isLt).symm⟩
  | succ n ih =>
    have hnext : (s.cursor + 1#2).toNat = (s.cursor.toNat + 1) % 4 := BitVec.toNat_add ..
    obtain ⟨u, hu, hslots, hcursor⟩ := ih (s := afterRefresh { s with overlap := none }) h hi
    refine ⟨u, (runCommands_refresh h hi _).trans hu, hslots, hcursor.trans ?_⟩
    rw [afterRefresh, hnext]
    omega

/-- Settles O40: the slots are blank after CLEAR, and REFRESH leaves them so. -/
theorem refreshesAfterClearAreBlank : Obligations.RefreshesAfterClearAreBlank := by
  intro s n h hp hi
  have hclear : NeedsPrintClosed .clear := .inr (.inl rfl)
  refine ⟨⟨_, exec_of_printClosed h hclear hp, rfl, rfl, rfl⟩, ?_⟩
  rw [runCommands_cons (exec_of_printClosed (s := { s with overlap := none }) h hclear hp)]
  obtain ⟨u, hu, hslots, hcursor⟩ := runCommands_replicate_refresh n
    (s := effect .clear { s with overlap := none }) h hi
  have hcode : (u.slots.get u.cursor).code = 0x00#8 := by
    rw [hslots]
    exact congrArg Slot.code (get_blankSlots _)
  have hnext : (u.cursor + 1#2).toNat = (u.cursor.toNat + 1) % 4 := BitVec.toNat_add ..
  refine ⟨_, selectBit u.cursor, hu, ?_, ?_, hnext.trans ?_⟩
  · rw [afterRefresh, hcode]
  · rw [afterRefresh, hcode]
  · rw [hcursor]
    exact Nat.mod_add_mod ..

/-! ## The tick's REFRESH (R52, R56) -/

/-- A presented REFRESH is taken in the state in which it is presented. -/
theorem step_refresh {s : State} {q : Request} {rest : List Request} (h : Running s) (hin : s.inbox = q :: rest)
    (hi : s.inited = true) (hd : decode q.word = .command .refresh) :
    ∃ t, step s = .next t ∧ t.segOut = .level ((s.present q rest).readCode s.cursor).1 ∧ t.slots = s.slots ∧
      t.inbox = rest :=
  ⟨_, (step_command h hin hd).trans (exec_refresh (s := s.present q rest) h hi), rfl, rfl, rfl⟩

/-- A presented REFRESH that overlaps nothing reads the code the slot holds. -/
theorem readCode_present {s : State} {q : Request} (h : q ≠ .tick true) (rest : List Request) (k : SlotIndex) :
    ((s.present q rest).readCode k).1 = (s.slots.get k).code := by
  rw [State.readCode_quiet (by rw [State.present_overlap, if_neg h])]
  rfl

/-- Settles O39: while the tick is held off, no presented command is an overlapping REFRESH. -/
theorem tickHeldOffShowsCurrentCodes : Obligations.TickHeldOffShowsCurrentCodes := by
  intro s t q rest h hi hheld hin hd ht
  have hmem (p : Request) (hp : p = q ∨ p ∈ rest) : p ≠ .tick true := hheld p (hin ▸ List.mem_cons.mpr hp)
  obtain ⟨u, hu, hseg, hslots, hinbox⟩ := step_refresh h hin hi hd
  obtain rfl : u = t := Host.Outcome.next.inj (hu.symm.trans ht)
  refine ⟨?_, hslots, fun p hp => hmem p (.inr (hinbox ▸ hp))⟩
  rw [hseg, readCode_present (hmem q (.inl rfl))]

/-- Settles O38: the load leaves the codes before it in the overlap window, which stays open only for a REFRESH issued during it. -/
theorem overlappingRefreshShowsOldOrNew : Obligations.OverlappingRefreshShowsOldOrNew := by
  intro s i during rest h hp hi hload hin
  have hexec := exec_of_printClosed (s := s.present (.host (encode i)) (.tick during :: rest)) h
    (needsPrintClosed_of_writesAllSlots hload) hp
  rw [effect_load hload] at hexec
  obtain ⟨t, ht, hrun, hinited, hinbox, hcursor, hold⟩ : ∃ t, step s = .next t ∧ Running t ∧ t.inited = true ∧
      t.inbox = .tick during :: rest ∧ t.cursor = s.cursor ∧ t.overlap = some s.slots.codes :=
    ⟨_, (step_command h hin (decode_encode i)).trans hexec, h, hi, rfl, rfl, rfl⟩
  obtain ⟨u, hu, hseg, hslots, -⟩ := step_refresh hrun hinbox hinited (decode_encode .refresh)
  refine ⟨t, u, _, ht, hu, hseg, hslots, ?_, ?_⟩ <;> rintro rfl <;> rw [← hcursor]
  · exact readCode_present (by decide) rest t.cursor
  · rw [← SlotFile.get_codes s.slots]
    exact readCode_overlap (s := t.present (.tick true) rest) hold t.cursor

end Sys2Proof.Machine

/-! PROOFS, 41_digit_load.md section 5: the characters of a print, and the closed form of a valid one (R105 to R109). -/

namespace Sys2Proof

/-- Writing back what stands there. -/
theorem Four.set_get_self {α : Type} (f : Four α) (k : SlotIndex) : f.set k (f.get k) = f := by
  apply Four.ext_get
  intro i
  by_cases hi : i = k
  · rw [hi, Four.get_set_same]
  · rw [Four.get_set_ne _ _ _ _ hi]

/-- The second of two writes of an entry stands. -/
theorem Four.set_set {α : Type} (f : Four α) (k : SlotIndex) (x y : α) : (f.set k x).set k y = f.set k y := by
  apply Four.ext_get
  intro i
  by_cases hi : i = k
  · rw [hi, Four.get_set_same, Four.get_set_same]
  · rw [Four.get_set_ne _ _ _ _ hi, Four.get_set_ne _ _ _ _ hi, Four.get_set_ne _ _ _ _ hi]

end Sys2Proof

namespace Sys2Proof.Machine

open Sys2Proof.Safety

/-! ## One character -/

theorem encode_printChar (c : Byte) : encode (.printChar c) = 0x50000000#32 ||| c.setWidth 32 := by
  simp [encode_eq_or, Instr.opcode, Opcode.bits, Instr.operand]

/-- In an open print whose walk has ended a character is ignored (R107). -/
theorem exec_printChar_ended {s : State} (h : Running s) (hp : s.prState = .stopped ∨ s.prState = .aborted) (c : Byte) :
    exec (.printChar c) s = .next { s with out := answer s .none } := by
  have hclosed : ¬PrintClosed s := by rcases hp with hp | hp <;> simp [hp]
  have hended : s.prState ≠ .walk := by rcases hp with hp | hp <;> simp [hp]
  rw [exec_printChar h hclosed, walkStep_ended c hended]

/-- Settles O28: the walk ignores the character, or no print is open. -/
theorem characterAfterTheWalkIsIgnored : Obligations.CharacterAfterTheWalkIsIgnored :=
  fun _ c h => ⟨encode_printChar c, fun hp => exec_printChar_ended h hp c, exec_faults_printNotOpen h (.inl ⟨c, rfl⟩)⟩

/-- A digit character is written whole by `withChar`. -/
theorem exec_printChar_digit {s : State} {c : Byte} (h : Running s) (hw : s.prState = .walk)
    (hv : isValidChar (upper c) = true) (hd : upper c ≠ charDot) :
    exec (.printChar c) s = .next { s with
      slots := s.slots.set s.prPos (withChar (upper c) (s.slots.get s.prPos))
      prState := if s.prPos = 0#2 then .stopped else .walk
      prPos := if s.prPos = 0#2 then s.prPos else s.prPos - 1#2
      out := answer s .none } := by
  rw [exec_printChar h (by simp [hw]), walkStep_digit hw hv hd]
  by_cases hz : s.prPos = 0#2
  · simp only [writeStep_last _ hz, hz, if_true]
    rfl
  · simp only [writeStep_left _ hz, if_neg hz, hw]
    rfl

theorem toNat_left_of_ne_zero : ∀ pos : SlotIndex, pos ≠ 0#2 → (pos - 1#2).toNat = pos.toNat - 1 := by decide

/-- Settles O27: the walk's slot is written; after slot 0 the walk has stopped, after another it is one slot to the left. -/
theorem digitIsWrittenAndTheWalkMovesLeft : Obligations.DigitIsWrittenAndTheWalkMovesLeft := by
  intro s c h hw hv hd
  refine ⟨_, exec_printChar_digit h hw hv hd, rfl, Four.get_set_same .., Four.get_set_ne _ _ _, fun hz => ?_, fun hz => ?_⟩
  · have hz : s.prPos = 0#2 := BitVec.eq_of_toNat_eq hz
    simp only [if_pos hz, true_and]
    exact fun d => exec_printChar_ended (by exact h) (.inl rfl) d
  · have hz : s.prPos ≠ 0#2 := fun hzero => hz (congrArg BitVec.toNat hzero)
    simp only [if_neg hz, true_and]
    exact toNat_left_of_ne_zero _ hz

/-! ## The closed form (R109) -/

/-- A slot after `n` '.'s: the first sets its point, the others find it set. -/
def withPoints (n : Nat) (x : Slot) : Slot := if 0 < n then withPoint x else x

theorem withPoint_withPoint (x : Slot) : withPoint (withPoint x) = withPoint x := by
  rw [withPoint, withPoint, BitVec.or_assoc, BitVec.or_self]

theorem withPoints_withPoint (n : Nat) (x : Slot) : withPoints n (withPoint x) = withPoint x := by
  rw [withPoints, withPoint_withPoint, ite_self]

/-- A run of '.'s sets the point of the slot after the walk's. -/
theorem printWalk_dots (n : Nat) (rest : List Byte) (f : SlotFile) (pos : SlotIndex) :
    printWalk (List.replicate n charDot ++ rest) f pos =
      printWalk rest (f.set (pos + 1#2) (withPoints n (f.get (pos + 1#2)))) pos := by
  induction n generalizing f with
  | zero => rw [withPoints, if_neg (lt_irrefl 0), Four.set_get_self, List.replicate_zero, List.nil_append]
  | succ n ih =>
    have hfirst := printWalk_dot (c := charDot) (by decide) (List.replicate n charDot ++ rest) f pos
    rw [List.replicate_succ, List.cons_append, hfirst, ih, Four.get_set_same, Four.set_set,
      ← withPoint, withPoints_withPoint, withPoints, if_pos n.succ_pos]

/-- What a digit character with the '.'s after it makes of its slot: a '.' after slot 0 finds the walk stopped. -/
def withGroup (g : Byte × Nat) (i : SlotIndex) (x : Slot) : Slot :=
  if i = 0#2 then withChar (upper g.1) x else withPoints g.2 (withChar (upper g.1) x)

/-- What the groups from position `pos` on make of slot `i`: group m goes to slot `pos - m`. -/
def withGroups (groups : List (Byte × Nat)) (pos i : SlotIndex) (x : Slot) : Slot :=
  match if i ≤ pos then groups[pos.toNat - i.toNat]? else none with
  | none => x
  | some g => withGroup g i x

/-- The characters of the groups, right to left. -/
def groupChars (groups : List (Byte × Nat)) : List Byte := groups.flatMap fun g => g.1 :: List.replicate g.2 charDot

theorem left_then_right : ∀ pos : SlotIndex, pos - 1#2 + 1#2 = pos := by decide

/-- The position of a slot among the groups, before and after the walk moves left. -/
theorem left_index : ∀ pos i : SlotIndex, pos ≠ 0#2 →
    (i ≤ pos ∧ i ≠ pos ↔ i ≤ pos - 1#2) ∧
    (i ≤ pos - 1#2 → pos.toNat - i.toNat = (pos - 1#2).toNat - i.toNat + 1) := by decide

theorem withGroups_here (g : Byte × Nat) (groups : List (Byte × Nat)) (pos : SlotIndex) (x : Slot) :
    withGroups (g :: groups) pos pos x = withGroup g pos x := by
  rw [withGroups, if_pos (BitVec.le_refl _), Nat.sub_self]
  rfl

theorem withGroups_left (g : Byte × Nat) (groups : List (Byte × Nat)) {pos i : SlotIndex} (hz : pos ≠ 0#2) (hi : i ≠ pos)
    (x : Slot) : withGroups (g :: groups) pos i x = withGroups groups (pos - 1#2) i x := by
  obtain ⟨hle, hindex⟩ := left_index pos i hz
  by_cases h : i ≤ pos - 1#2
  · rw [withGroups, withGroups, if_pos h, if_pos (hle.mpr h).1, hindex h, List.getElem?_cons_succ]
  · rw [withGroups, withGroups, if_neg h, if_neg fun h' => h (hle.mp ⟨h', hi⟩)]

/-- No group goes to a slot right of the position. -/
theorem withGroups_right {pos i : SlotIndex} (hi : ¬i ≤ pos) (groups : List (Byte × Nat)) (x : Slot) :
    withGroups groups pos i x = x := by
  rw [withGroups, if_neg hi]

theorem not_le_zero_slot : ∀ i : SlotIndex, i ≠ 0#2 → ¬i ≤ 0#2 := by decide

theorem not_le_left : ∀ pos : SlotIndex, pos ≠ 0#2 → ¬pos ≤ pos - 1#2 := by decide

/-- The print program on one group: its slot is written, and the program ends with slot 0 or goes on to the left. -/
theorem printWalk_group {g : Byte × Nat} (hv : isValidChar (upper g.1) = true) (hd : g.1 ≠ charDot) (rest : List Byte)
    (f : SlotFile) (pos : SlotIndex) :
    printWalk (g.1 :: List.replicate g.2 charDot ++ rest) f pos =
      if pos = 0#2 then (f.set pos (withGroup g pos (f.get pos)), true)
      else printWalk rest (f.set pos (withGroup g pos (f.get pos))) (pos - 1#2) := by
  rw [List.cons_append, printWalk_digit hv ((upper_eq_dot g.1).not.mpr hd)]
  by_cases hz : pos = 0#2
  · simp only [if_pos hz, withGroup]
    rfl
  · simp only [if_neg hz, withGroup, printWalk_dots, left_then_right, Four.get_set_same, Four.set_set]
    rfl

/-- The print program on valid groups: slot by slot `withGroups`, and success. -/
theorem printWalk_groups {groups : List (Byte × Nat)}
    (hvalid : ∀ g ∈ groups, isValidChar (upper g.1) = true ∧ g.1 ≠ charDot) (f : SlotFile) (pos : SlotIndex) :
    (∀ i, (printWalk (groupChars groups) f pos).1.get i = withGroups groups pos i (f.get i)) ∧
    (printWalk (groupChars groups) f pos).2 = true := by
  induction groups generalizing f pos with
  | nil =>
    refine ⟨fun i => ?_, rfl⟩
    rw [withGroups, List.getElem?_nil, ite_self]
    rfl
  | cons g groups ih =>
    obtain ⟨hv, hd⟩ := hvalid g List.mem_cons_self
    have hrest (g' : Byte × Nat) (hg' : g' ∈ groups) := hvalid g' (List.mem_cons_of_mem _ hg')
    rw [groupChars, List.flatMap_cons, ← groupChars, printWalk_group hv hd]
    by_cases hz : pos = 0#2
    · subst hz
      refine ⟨fun i => ?_, rfl⟩
      by_cases hi : i = 0#2
      · rw [hi, withGroups_here]
        exact Four.get_set_same ..
      · rw [withGroups_right (not_le_zero_slot i hi)]
        exact Four.get_set_ne _ _ _ _ hi
    · rw [if_neg hz]
      obtain ⟨hslots, hresult⟩ := ih hrest (f.set pos (withGroup g pos (f.get pos))) (pos - 1#2)
      refine ⟨fun i => ?_, hresult⟩
      rw [hslots]
      by_cases hi : i = pos
      · rw [hi, withGroups_here, withGroups_right (not_le_left pos hz), Four.get_set_same]
      · rw [withGroups_left g groups hz hi, Four.get_set_ne _ _ _ _ hi]

/-- The blank slots after the leading '.'s: slot 0 has the point if there is any. -/
def leadingSlots (leadingDots : Nat) : SlotFile := blankSlots.set 0#2 (withPoints leadingDots blankSlot)

theorem get_leadingSlots (leadingDots : Nat) (i : SlotIndex) :
    (leadingSlots leadingDots).get i = { blankSlot with code := if i = 0#2 ∧ 0 < leadingDots then dpBit else 0#8 } := by
  by_cases hi : i = 0#2
  · rw [hi, leadingSlots, Four.get_set_same, withPoints]
    by_cases hn : 0 < leadingDots
    · rw [if_pos hn, if_pos ⟨rfl, hn⟩]
      rfl
    · rw [if_neg hn, if_neg fun h => hn h.2]
      rfl
  · rw [leadingSlots, Four.get_set_ne _ _ _ _ hi, get_blankSlots, if_neg fun h => hi h.1]
    rfl

/-- A group written over a slot that holds no more than a point. -/
theorem withGroup_point (g : Byte × Nat) (i : SlotIndex) (point : Byte) :
    withGroup g i { blankSlot with code := point } =
      { code := charToCode (upper g.1) ||| point ||| if i ≠ 0#2 ∧ 0 < g.2 then dpBit else 0#8
        value := charToValue (upper g.1)
        ch := upper g.1 } := by
  by_cases hi : i = 0#2
  · simp [withGroup, withChar, hi, BitVec.or_comm]
  · by_cases hn : 0 < g.2 <;> simp [withGroup, withPoints, withPoint, withChar, hi, hn, BitVec.or_comm]

theorem withGroups_leadingSlots (leadingDots : Nat) (groups : List (Byte × Nat)) (i : SlotIndex) :
    withGroups groups 3#2 i ((leadingSlots leadingDots).get i) = closedSlot leadingDots groups i := by
  have hle : ∀ i : SlotIndex, i ≤ 3#2 := by decide
  have hthree : (3#2 : SlotIndex).toNat = 3 := rfl
  rw [withGroups, if_pos (hle i), get_leadingSlots, closedSlot, hthree]
  cases groups[3 - i.toNat]? with
  | none => rfl
  | some g => exact withGroup_point g i _

/-- Settles O31: the leading '.'s set slot 0's point, then each group is written to its slot. -/
theorem validPrintHasTheClosedForm : Obligations.ValidPrintHasTheClosedForm := by
  intro leadingDots groups hvalid
  obtain ⟨hslots, hresult⟩ := printWalk_groups hvalid (leadingSlots leadingDots) 3#2
  have hprogram : printProgram (groupedText leadingDots groups) = printWalk (groupChars groups) (leadingSlots leadingDots) 3#2 := by
    rw [printProgram, groupedText, List.reverse_reverse]
    exact printWalk_dots leadingDots _ blankSlots 3#2
  rw [hprogram]
  exact ⟨fun i => (hslots i).trans (withGroups_leadingSlots leadingDots groups i), hresult⟩

end Sys2Proof.Machine

/-! PROOFS, 10_state.md: what each command can change, and what it puts out (R21 to R38). -/

namespace Sys2Proof.Machine

open Sys2Proof.Safety

/-! ## Outputs (R38, R55) -/

theorem effect_addressee (i : Instr) (s : State) : (effect i s).out.addressee = s.issuer := by
  cases i <;> rfl

theorem effect_response (i : Instr) (s : State) : ∃ r, (effect i s).out.response = some r ∧ RespondsAsTyped i r := by
  cases i with
  | printEnd | printRaw | encNibble | charValue | charCode | charValid | readSlot => exact ⟨_, rfl, _, rfl⟩
  | init | clear | write | printBegin | printChar | refresh => exact ⟨_, rfl, rfl⟩

/-- Only REFRESH emits port events. -/
theorem effect_events {i : Instr} (hi : i ≠ .refresh) (s : State) : (effect i s).out.events = [] := by
  cases i with
  | refresh => contradiction
  | _ => rfl

theorem effect_oneHot (i : Instr) (s : State) : OneHotEvents (effect i s).out.events := by
  by_cases hi : i = .refresh
  · subst hi
    exact .inr ⟨s.cursor, _, rfl⟩
  · exact .inl (effect_events hi s)

/-- Settles O47: REFRESH puts out its two writes, a mark and every other command none. -/
theorem stepKeepsOneHotEvents : Obligations.StepKeepsOneHotEvents :=
  fun _ _ hs h =>
    step_preserves (P := fun s => OneHotEvents s.out.events) (fun _ _ _ h => h) (fun _ _ _ => .inl rfl)
      (fun i s _ _ => effect_oneHot i s) hs h

/-- Settles O52: a mark puts nothing out, and an effect its command's response. -/
theorem responseHasItsTypeAndAddressee : Obligations.ResponseHasItsTypeAndAddressee := by
  intro s t i h
  obtain ⟨hrun, ⟨reason, -, rfl⟩ | ⟨-, rfl⟩⟩ := exec_outcome h
  · exact ⟨rfl, fun hunmarked => by simp [marked] at hunmarked, fun _ => rfl⟩
  · exact ⟨effect_addressee i s, fun _ => effect_response i s, fun hmark => absurd ((effect_faulted i s).trans hrun) hmark⟩

/-! ## The cursor, the ports and the control state -/

/-- Outside REFRESH and the first INIT no port moves and no draw is taken. -/
theorem effect_ports {i : Instr} {s : State} (hi : i ≠ .refresh) (hinit : i ≠ .init ∨ s.inited = true) :
    (effect i s).segOut = s.segOut ∧ (effect i s).selOut = s.selOut ∧ (effect i s).draws = s.draws := by
  cases i with
  | init => simp [effect, hinit.resolve_left (not_not_intro rfl)]
  | refresh => contradiction
  | printChar c =>
    rw [effect, walkStep_frame]
    exact ⟨rfl, rfl, rfl⟩
  | _ => exact ⟨rfl, rfl, rfl⟩

/-- Settles O49: a mark moves nothing, and the effects one by one. -/
theorem cursorAndPortsChangeOnlyByRefresh : Obligations.CursorAndPortsChangeOnlyByRefresh := by
  intro s t i h
  have hcursor (hi : i ≠ .refresh) : t.cursor = s.cursor := exec_cursor h hi
  obtain ⟨-, ⟨reason, -, rfl⟩ | ⟨-, rfl⟩⟩ := exec_outcome h
  · exact ⟨fun hi => ⟨hcursor hi, rfl⟩, fun _ _ => ⟨rfl, rfl, rfl⟩⟩
  · exact ⟨fun hi => ⟨hcursor hi, effect_events hi s⟩, effect_ports⟩

theorem effect_inited {i : Instr} (hi : i ≠ .init) (s : State) : (effect i s).inited = s.inited := by
  cases i with
  | init => contradiction
  | printChar c => exact walkStep_inited c s
  | _ => rfl

theorem effect_inited_true {s : State} (h : s.inited = true) (i : Instr) : (effect i s).inited = true := by
  by_cases hi : i = .init
  · rw [hi, effect]
  · rw [effect_inited hi, h]

/-- The print state and the walk position are the PRINT commands' alone. -/
theorem effect_printState {i : Instr} (hbegin : i ≠ .printBegin) (hchar : ∀ c, i ≠ .printChar c) (s : State) :
    (effect i s).prPos = s.prPos ∧ (i ≠ .printEnd → (effect i s).prState = s.prState) := by
  cases i with
  | printBegin => contradiction
  | printChar c => exact absurd rfl (hchar c)
  | printEnd => exact ⟨rfl, fun h => absurd rfl h⟩
  | _ => exact ⟨rfl, fun _ => rfl⟩

theorem effect_presented (i : Instr) (s : State) : (effect i s).inbox = s.inbox ∧ (effect i s).issuer = s.issuer := by
  cases i with
  | printChar c =>
    rw [effect, walkStep_frame]
    exact ⟨rfl, rfl⟩
  | _ => exact ⟨rfl, rfl⟩

/-- Settles O50: a mark changes none of these fields, and each effect only its own. -/
theorem controlStateChangesOnlyAsStated : Obligations.ControlStateChangesOnlyAsStated := by
  intro s t i h
  obtain ⟨-, ⟨reason, -, rfl⟩ | ⟨-, rfl⟩⟩ := exec_outcome h
  · exact ⟨fun _ => rfl, id, fun _ _ _ => rfl, fun _ _ => rfl, rfl, rfl⟩
  · exact ⟨fun hi => effect_inited hi s, fun hi => effect_inited_true hi i,
      fun hbegin hend hchar => (effect_printState hbegin hchar s).2 hend,
      fun hbegin hchar => (effect_printState hbegin hchar s).1, effect_presented i s⟩

/-! ## The slots and their decimal points -/

/-- Settles O48: the effects on the slots are whole loads and the walk's single writes. -/
theorem slotsChangeOnlyByLoadCommands : Obligations.SlotsChangeOnlyByLoadCommands := by
  intro s t i h
  obtain ⟨-, ⟨reason, -, rfl⟩ | ⟨-, rfl⟩⟩ := exec_outcome h
  · exact ⟨fun _ _ => rfl, fun _ _ => ⟨fun _ => rfl, fun _ _ _ _ => rfl, fun _ _ _ _ _ => rfl⟩, fun _ => rfl⟩
  · refine ⟨fun hload hchar => ?_, ?_, fun hload => ?_⟩
    · obtain ⟨hload', -⟩ | ⟨c, hc, -⟩ | ⟨-, -, hsame, -⟩ := effect_slots i s
      · contradiction
      · exact absurd hc (hchar c)
      · exact hsame
    · rintro c rfl
      exact ⟨walkStep_slots_same, fun hw hc _ hj => walkStep_slots_dot hw ((upper_eq_dot c).mpr hc) hj,
        fun hw hv hc _ hj => walkStep_slots_digit hw hv ((upper_eq_dot c).not.mpr hc) hj⟩
    · obtain ⟨hload', -⟩ | ⟨c, -, hchar⟩ | ⟨-, -, -, hsame⟩ := effect_slots i s
      · contradiction
      · rw [hchar, walkStep_frame]
      · exact hsame

theorem withPoint_hasDecimal (x : Slot) : (withPoint x).hasDecimal = true := by
  simp [withPoint, Slot.hasDecimal, dpBit]

/-- A printed character keeps the point of its slot. -/
theorem withChar_hasDecimal (u : Byte) (x : Slot) : (withChar u x).hasDecimal = x.hasDecimal := by
  rw [withChar, Slot.hasDecimal, BitVec.getLsbD_or, charToCode_bit7, Bool.or_false, Slot.hasDecimal]

theorem get_loadedSlots_hasDecimal (i : Instr) (k : SlotIndex) : ((loadedSlots i).get k).hasDecimal = false := by
  obtain h | ⟨n, h⟩ := get_loadedSlots i k <;> rw [h]
  · exact blankSlot_hasDecimal
  · exact hexSlot_hasDecimal n

/-- A write keeps a slot's point if the slot written keeps its own. -/
theorem get_set_hasDecimal {f : SlotFile} {k : SlotIndex} {x : Slot} (h : x.hasDecimal = (f.get k).hasDecimal) (j : SlotIndex) :
    ((f.set k x).get j).hasDecimal = (f.get j).hasDecimal := by
  by_cases hj : j = k
  · rw [hj, Four.get_set_same, h]
  · rw [Four.get_set_ne _ _ _ _ hj]

/-- A character of a print changes no decimal point, but a '.' in an open walk sets one. -/
theorem walkStep_hasDecimal (c : Byte) (s : State) (k : SlotIndex) :
    ((walkStep c s).slots.get k).hasDecimal = (s.slots.get k).hasDecimal ∨
    (c = charDot ∧ s.prState = .walk ∧ ((walkStep c s).slots.get k).hasDecimal = true) := by
  rcases walkStep_cases c s with e | ⟨-, -, e⟩ | ⟨hw, hd, e⟩ | ⟨-, -, -, e⟩ <;> rw [e]
  · exact .inl rfl
  · exact .inl rfl
  · rw [dpStep_slots]
    by_cases hk : k = s.prPos + 1#2
    · rw [hk, Four.get_set_same]
      exact .inr ⟨(upper_eq_dot c).mp hd, hw, withPoint_hasDecimal _⟩
    · rw [Four.get_set_ne _ _ _ _ hk]
      exact .inl rfl
  · rw [writeStep_slots]
    exact .inl (get_set_hasDecimal (withChar_hasDecimal _ _) k)

/-- Settles O51: the points of loaded slots are clear, and the walk sets them by '.' only. -/
theorem decimalPointChangesOnlyAsStated : Obligations.DecimalPointChangesOnlyAsStated := by
  intro s t i k h
  obtain ⟨-, ⟨reason, -, rfl⟩ | ⟨-, rfl⟩⟩ := exec_outcome h
  · exact ⟨fun _ => .inl rfl, fun _ hunmarked => by simp [marked] at hunmarked⟩
  · refine ⟨fun hload => ?_, fun hload _ => ?_⟩
    · obtain ⟨hload', -⟩ | ⟨c, rfl, -⟩ | ⟨-, -, hsame, -⟩ := effect_slots i s
      · contradiction
      · exact (walkStep_hasDecimal c s k).imp_right fun ⟨hc, hwalk⟩ => ⟨congrArg _ hc, hwalk⟩
      · rw [hsame]
        exact .inl rfl
    · rw [effect_load hload]
      exact get_loadedSlots_hasDecimal i k

end Sys2Proof.Machine

/-! PROOFS, 10_state.md sections 2, 4 and 9, and 60_exceptions.md section 3: what no command depends on. -/

namespace Sys2Proof.Machine

open Sys2Proof.Safety

/-- Two states that agree in what the state checks read have outcomes that agree as far as marks and effects do. -/
theorem sameUpTo_exec {f : State → State} {i : Instr} {s u : State} (hfaulted : u.faulted = s.faulted)
    (hinited : u.inited = s.inited) (hstate : u.prState = s.prState) (hmark : ∀ reason, f (marked s reason) = f (marked u reason))
    (heffect : f (effect i s) = f (effect i u)) : SameUpTo f (exec i s) (exec i u) := by
  have hfaults (reason : FaultReason) : Faults i u reason ↔ Faults i s reason := by
    rw [Faults, Faults, hinited, hstate]
  rcases hf : s.faulted with _ | r
  · by_cases hpass : Passes i s
    · have hpass' : Passes i u := fun reason h => hpass reason ((hfaults reason).mp h)
      rw [exec_of_passes hf hpass, exec_of_passes (hfaulted.trans hf) hpass']
      exact heffect
    · obtain ⟨reason, hreason⟩ := not_forall_not.mp hpass
      rw [exec_of_faults hf hreason, exec_of_faults (hfaulted.trans hf) ((hfaults reason).mpr hreason)]
      exact hmark reason
  · rw [exec_faulted hf, exec_faulted (hfaulted.trans hf)]
    rfl

/-- What REFRESH reads depends on the codes, the overlap window and the draw counter only. -/
theorem readCode_congr {s u : State} (hcodes : SlotFile.codes u.slots = SlotFile.codes s.slots) (hoverlap : u.overlap = s.overlap)
    (hdraws : u.draws = s.draws) (k : SlotIndex) :
    (u.readCode k).1 = (s.readCode k).1 ∧ (u.readCode k).2.draws = (s.readCode k).2.draws := by
  have hcode : (u.slots.get k).code = (s.slots.get k).code := by
    rw [← SlotFile.get_codes, ← SlotFile.get_codes, hcodes]
  simp only [State.readCode, hcode, hoverlap, hdraws]
  cases s.overlap with
  | none => exact ⟨rfl, hdraws⟩
  | some old => exact ⟨rfl, rfl⟩

theorem map_set {α : Type} (g : Slot → α) (f : SlotFile) (k : SlotIndex) (x : Slot) :
    (f.set k x).map g = (f.map g).set k (g x) := by
  apply Four.ext_get
  intro i
  rw [Four.get_map]
  by_cases hi : i = k
  · rw [hi, Four.get_set_same, Four.get_set_same]
  · rw [Four.get_set_ne _ _ _ _ hi, Four.get_set_ne _ _ _ _ hi, Four.get_map]

/-- What a part of a slot must be for a print to make of it the same in every slot that agrees in it. -/
structure PrintReadsOnly {α : Type} (g : Slot → α) : Prop where
  point : ∀ x y, g x = g y → g (withPoint x) = g (withPoint y)
  char : ∀ u x y, g x = g y → g (withChar u x) = g (withChar u y)

/-- A write that a part of slots does not see through keeps two slot files alike in that part. -/
theorem map_set_congr {α : Type} {g : Slot → α} {w : Slot → Slot} (hw : ∀ x y, g x = g y → g (w x) = g (w y))
    {f f' : SlotFile} (h : f'.map g = f.map g) (k : SlotIndex) : (f'.set k (w (f'.get k))).map g = (f.set k (w (f.get k))).map g := by
  have hk : g (f'.get k) = g (f.get k) := by rw [← Four.get_map g, ← Four.get_map g, h]
  rw [map_set, map_set, h, hw _ _ hk]

/-- A character of the walk reads that part of the slots, the print state and the walk position only. -/
theorem walkStep_congr {α : Type} {g : Slot → α} (hg : PrintReadsOnly g) (c : Byte) {s u : State}
    (hslots : u.slots.map g = s.slots.map g) (hstate : u.prState = s.prState) (hpos : u.prPos = s.prPos) :
    (walkStep c u).slots.map g = (walkStep c s).slots.map g ∧ (walkStep c u).prState = (walkStep c s).prState ∧
    (walkStep c u).prPos = (walkStep c s).prPos := by
  by_cases hw : s.prState = .walk
  · have hw' : u.prState = .walk := hstate.trans hw
    cases hv : isValidChar (upper c)
    · rw [walkStep_invalid hw hv, walkStep_invalid hw' hv]
      exact ⟨hslots, rfl, hpos⟩
    · by_cases hd : upper c = charDot
      · rw [walkStep_dot hw hd, walkStep_dot hw' hd, dpStep_slots, dpStep_slots, hpos]
        exact ⟨map_set_congr hg.point hslots _, hstate, hpos⟩
      · rw [walkStep_digit hw hv hd, walkStep_digit hw' hv hd, writeStep_slots, writeStep_slots, hpos]
        refine ⟨map_set_congr (hg.char _) hslots _, ?_⟩
        by_cases hz : s.prPos = 0#2
        · rw [writeStep_last _ hz, writeStep_last _ (hpos.trans hz)]
          exact ⟨rfl, hpos⟩
        · rw [writeStep_left _ hz, writeStep_left _ (fun hz' => hz (hpos.symm.trans hz'))]
          exact ⟨hstate, congrArg (· - 1#2) hpos⟩
  · rw [walkStep_ended c hw, walkStep_ended c (fun hw' => hw (hstate.symm.trans hw'))]
    exact ⟨hslots, hstate, hpos⟩

/-- A character of the walk reads nothing outside the slots, the print state and the walk position. -/
theorem walkStep_frame_congr (c : Byte) {s u : State} (hslots : u.slots = s.slots) (hstate : u.prState = s.prState)
    (hpos : u.prPos = s.prPos) :
    walkStep c u =
      { u with slots := (walkStep c s).slots, prState := (walkStep c s).prState, prPos := (walkStep c s).prPos } := by
  have hid : PrintReadsOnly (id : Slot → Slot) := ⟨fun _ _ => congrArg _, fun _ _ _ => congrArg _⟩
  obtain ⟨hslots', hstate', hpos'⟩ := walkStep_congr hid c (congrArg (Four.map id) hslots) hstate hpos
  have hslots' : (walkStep c u).slots = (walkStep c s).slots := hslots'
  rw [walkStep_frame c u, hslots', hstate', hpos']

/-- Settles O53: outside REFRESH the cursor is carried along. -/
theorem cursorIsHiddenFromOtherCommands : Obligations.CursorIsHiddenFromOtherCommands := by
  refine fun s i c hi => sameUpTo_exec rfl rfl rfl (fun _ => rfl) ?_
  cases i with
  | refresh => contradiction
  | printChar d =>
    rw [effect, effect, walkStep_frame d s, walkStep_frame_congr d (s := s) (u := { s with cursor := c }) rfl rfl rfl]
    rfl
  | _ => rfl

/-- Settles O54: outside an open walk a character changes nothing, and no other command reads the position. -/
theorem walkPositionUnreadOutsideTheWalk : Obligations.WalkPositionUnreadOutsideTheWalk := by
  refine fun s i p hw => sameUpTo_exec rfl rfl rfl (fun _ => rfl) ?_
  cases i with
  | printChar c =>
    rw [effect, effect, walkStep_ended c hw, walkStep_ended c (s := { s with prPos := p }) hw]
    rfl
  | refresh =>
    obtain ⟨hcode, hdraws⟩ := readCode_congr (s := s) (u := { s with prPos := p }) rfl rfl rfl s.cursor
    simp only [effect, hcode, hdraws]
    rfl
  | _ => rfl

/-- Settles O55: the issuer is carried along and named as the addressee. -/
theorem noCommandDependsOnItsIssuer : Obligations.NoCommandDependsOnItsIssuer := by
  refine fun s i a => sameUpTo_exec rfl rfl rfl (fun _ => rfl) ?_
  cases i with
  | printChar c =>
    rw [effect, effect, walkStep_frame c s, walkStep_frame_congr c (s := s) (u := { s with issuer := a }) rfl rfl rfl]
    rfl
  | refresh =>
    obtain ⟨hcode, hdraws⟩ := readCode_congr (s := s) (u := { s with issuer := a }) rfl rfl rfl s.cursor
    simp only [effect, hcode, hdraws]
    rfl
  | _ => rfl

/-- What of a slot may reach a port: its code. -/
def codeOnly (x : Slot) : Slot := { x with value := 0#4, ch := 0x00#8 }

theorem codeOnly_eq_iff (x y : Slot) : codeOnly x = codeOnly y ↔ x.code = y.code := by
  simp [codeOnly]

theorem printReadsOnly_codeOnly : PrintReadsOnly codeOnly where
  point _ _ h := (codeOnly_eq_iff _ _).mpr (congrArg (· ||| dpBit) ((codeOnly_eq_iff _ _).mp h))
  char u _ _ h := (codeOnly_eq_iff _ _).mpr (congrArg (· ||| charToCode u) ((codeOnly_eq_iff _ _).mp h))

/-- States that differ in their slots only are equal once the slots are replaced by the same ones. -/
theorem withSlots_congr {t u : State} {a b : SlotFile} (hrest : u = { t with slots := u.slots }) (h : b = a) :
    ({ t with slots := a } : State) = { u with slots := b } := by
  rw [hrest, h]

/-- Settles O56: marks and effects keep the codes of the slots alike, and no command but READ_SLOT reads more of them. -/
theorem valueAndCharacterNeverReachAPort : Obligations.ValueAndCharacterNeverReachAPort := by
  intro s f i hcodes hread
  have hslots : f.map codeOnly = s.slots.map codeOnly := by
    apply Four.ext_get
    intro k
    rw [Four.get_map, Four.get_map, codeOnly_eq_iff, ← SlotFile.get_codes, ← SlotFile.get_codes, hcodes]
  refine sameUpTo_exec rfl rfl rfl (fun _ => withSlots_congr rfl hslots) ?_
  cases i with
  | clear | write | printBegin =>
    refine withSlots_congr ?_ rfl
    simp only [effect, hcodes]
    rfl
  | printChar c =>
    obtain ⟨hmap, hstate, hpos⟩ := walkStep_congr printReadsOnly_codeOnly c (s := s) (u := { s with slots := f }) hslots rfl rfl
    refine withSlots_congr ?_ hmap
    rw [effect, effect, walkStep_frame c s, walkStep_frame c { s with slots := f }, hstate, hpos]
    rfl
  | refresh =>
    obtain ⟨hcode, hdraws⟩ := readCode_congr (s := s) (u := { s with slots := f }) hcodes rfl rfl s.cursor
    refine withSlots_congr ?_ hslots
    simp only [effect, hcode, hdraws]
    rfl
  | readSlot idx => exact absurd rfl (hread idx)
  | _ => exact withSlots_congr rfl hslots

end Sys2Proof.Machine
